-- ==== Sys2Proof/Word.lean ====
section
/-! DEFINITION. The word types of the block: bytes, 32-bit patterns and byte strings (spec R11, R12). -/

namespace Sys2Proof

/-- A byte is 8 bits (R11). -/
abbrev Byte := BitVec 8

/-- A 32-bit pattern: a checksum, a wire field, a configuration or status register (R12, R40, R41). -/
abbrev Word := BitVec 32

/-- A byte string, leftmost byte first (R11). -/
abbrev Bytes := List Byte

/-- One datagram: a byte string whose length is part of it (R62). -/
abbrev Datagram := Bytes

end Sys2Proof
end

