-- ==== Sys2Proof/Syntax.lean ====
section
/-! DEFINITION. The operations of the block, one constructor for each row of spec/opcode_table.json, and the forms
in which they arrive: an event on the event interface, or a datagram at a port (R90 to R99). -/

namespace Sys2Proof

/-- The operations (R99) and the three wire formats (R90, R92, R94).  Register fields of an encoding are the bit
patterns they have on the wire; the sequence numbers they stand for are read by the meanings (R91, R93). -/
inductive Instr where
  /-- 0x00 CRC32 of a payload (R121). -/
  | crc32 (payload : Bytes)
  /-- 0x01 ENC_PKT: operand `be32(seq) ++ be32(checksum) ++ payload` (R98, R123). -/
  | encPkt (seq checksum : Word) (payload : Bytes)
  /-- 0x02 DEC_PKT of a datagram (R124). -/
  | decPkt (d : Datagram)
  /-- 0x03 ENC_ACK: operand `be32(seq)` (R98, R125). -/
  | encAck (seq : Word)
  /-- 0x04 DEC_ACK of a datagram (R126). -/
  | decAck (d : Datagram)
  /-- 0x10 TX_RESET (R141). -/
  | txReset
  /-- 0x11 TX_START (R142). -/
  | txStart
  /-- 0x12 TX_ACK of an arriving ACK datagram (R144). -/
  | txAck (d : Datagram)
  /-- 0x13 TX_TIMEOUT (R146). -/
  | txTimeout
  /-- 0x14 TX_TICK (R145). -/
  | txTick
  /-- 0x15 TX_IOFAULT (R147). -/
  | txIofault
  /-- 0x20 RX_RESET (R171). -/
  | rxReset
  /-- 0x21 RX_START (R172). -/
  | rxStart
  /-- 0x22 RX_PKT of an arriving data datagram (R173). -/
  | rxPkt (d : Datagram)
  /-- 0x23 RX_IOFAULT (R178). -/
  | rxIofault
  /-- Wire format PKT.DATA (R90): a data packet at `rx.pkt_in` that is not the end-marker. -/
  | pktData (seq checksum : Word) (payload : Bytes)
  /-- Wire format PKT.EOM (R94): an end-marker packet at `rx.pkt_in`. -/
  | pktEom (seq : Word)
  /-- Wire format ACK (R92): an acknowledgement at `tx.ack_in`; `rest` is what follows the fourth byte (R97). -/
  | ack (seq : Word) (rest : Bytes)
  deriving DecidableEq, Repr

/-- The two datagram input ports.  The forward channel ends at `rx.pkt_in`, the reverse channel at `tx.ack_in`
(R75), so a port also names its channel. -/
inductive Port where
  /-- `rx.pkt_in`, the end of the forward channel. -/
  | pktIn
  /-- `tx.ack_in`, the end of the reverse channel. -/
  | ackIn
  deriving DecidableEq, Repr

/-- What the decoder reads: an event `(op, len, data)` (R98) or a datagram at a port (R95). -/
inductive Encoded where
  | event (op : Byte) (len : Nat) (data : Bytes)
  | datagram (port : Port) (d : Datagram)
  deriving DecidableEq, Repr

/-- What the world outside the two engines does next (R75, R98, R202, R210).  The state holds the pending ones as
a list; their order is the order the environment takes them in (log entry 4). -/
inductive Input where
  /-- An event on the event interface (R98). -/
  | event (op : Byte) (len : Nat) (data : Bytes)
  /-- The channel delivers one copy of `d` at `port` (R75, deliver). -/
  | deliver (port : Port) (d : Datagram)
  /-- The channel loses one copy of `d` (R75, drop). -/
  | drop (port : Port) (d : Datagram)
  /-- The channel makes a second copy of `d` (R75, duplicate). -/
  | duplicate (port : Port) (d : Datagram)
  /-- The channel replaces one copy of `d` by `d'` (R75, corrupt). -/
  | corrupt (port : Port) (d d' : Datagram)
  /-- The host writes a register (R39, R40). -/
  | hostWrite (reg : Byte) (value : Word)
  /-- The host reads a register (R39, R40, R41). -/
  | hostRead (reg : Byte)
  /-- The host supplies the source stream (R66, R222). -/
  | hostSource (bytes : Bytes)
  /-- The host opens an empty output sink (R67, R222). -/
  | hostSink
  deriving DecidableEq, Repr

end Sys2Proof
end

