-- ==== Sys2Proof/Decode.lean ====
section
/-! DEFINITION. Byte order (R12, R60), the decoder of events (R98 to R100) and of arriving datagrams (R90 to R97),
the encoder, and `decodeTableWord`. -/

namespace Sys2Proof

/-- `be32(w)`: the 4-byte string of a pattern, most significant byte first (R12). -/
def be32 (w : Word) : Bytes :=
  [w.extractLsb' 24 8, w.extractLsb' 16 8, w.extractLsb' 8 8, w.extractLsb' 0 8]

/-- `unbe32(s)` of the four bytes `s[0] .. s[3]` (R12). -/
def unbe32 (b0 b1 b2 b3 : Byte) : Word :=
  b0 ++ b1 ++ b2 ++ b3

/-- Why the decoder rejects. -/
inductive DecodeError where
  /-- A selector code that R99 does not list (R100). -/
  | reservedSelector
  /-- The triple's `len` is not the length of its `data` (R98). -/
  | lengthMismatch
  /-- An operation whose operand is empty came with operand bytes (R98). -/
  | operandNotEmpty
  /-- The operand is too short for its number fields, or not exactly them for ENC_ACK (R98, R99). -/
  | operandLength
  /-- Fewer than 8 bytes at `rx.pkt_in` (R97). -/
  | malformedPacket
  /-- Fewer than 4 bytes at `tx.ack_in` (R97). -/
  | malformedAck
  deriving DecidableEq, Repr

/-- An operation without operand (R98: "empty for the others"). -/
def noOperand (data : Bytes) (i : Instr) : Except DecodeError Instr :=
  if data = [] then .ok i else .error .operandNotEmpty

/-- The operand of ENC_PKT: `be32(seq) ++ be32(checksum) ++ payload` (R98, R99). -/
def decodeEncPkt : Bytes → Except DecodeError Instr
  | b0 :: b1 :: b2 :: b3 :: c0 :: c1 :: c2 :: c3 :: payload =>
    .ok (.encPkt (unbe32 b0 b1 b2 b3) (unbe32 c0 c1 c2 c3) payload)
  | _ => .error .operandLength

/-- The operand of ENC_ACK: `be32(seq)` (R98, R99). -/
def decodeEncAck : Bytes → Except DecodeError Instr
  | [b0, b1, b2, b3] => .ok (.encAck (unbe32 b0 b1 b2 b3))
  | _ => .error .operandLength

/-- The code map of R99; every other selector is reserved (R100). -/
def decodeSelector (op : Byte) (data : Bytes) : Except DecodeError Instr :=
  match op.toNat with
  | 0x00 => .ok (.crc32 data)
  | 0x01 => decodeEncPkt data
  | 0x02 => .ok (.decPkt data)
  | 0x03 => decodeEncAck data
  | 0x04 => .ok (.decAck data)
  | 0x10 => noOperand data .txReset
  | 0x11 => noOperand data .txStart
  | 0x12 => .ok (.txAck data)
  | 0x13 => noOperand data .txTimeout
  | 0x14 => noOperand data .txTick
  | 0x15 => noOperand data .txIofault
  | 0x20 => noOperand data .rxReset
  | 0x21 => noOperand data .rxStart
  | 0x22 => .ok (.rxPkt data)
  | 0x23 => noOperand data .rxIofault
  | _ => .error .reservedSelector

/-- An event is a triple whose `len` counts its `data` (R98). -/
def decodeEvent (op : Byte) (len : Nat) (data : Bytes) : Except DecodeError Instr :=
  if data.length = len then decodeSelector op data else .error .lengthMismatch

/-- A datagram at `rx.pkt_in`: a data packet, by R90 and R94; under 8 bytes is illegal (R97). -/
def decodePktIn : Datagram → Except DecodeError Instr
  | b0 :: b1 :: b2 :: b3 :: c0 :: c1 :: c2 :: c3 :: payload =>
    if unbe32 c0 c1 c2 c3 = 0xFF000000#32 ∧ payload = [0xFF#8] then
      .ok (.pktEom (unbe32 b0 b1 b2 b3))
    else .ok (.pktData (unbe32 b0 b1 b2 b3) (unbe32 c0 c1 c2 c3) payload)
  | _ => .error .malformedPacket

/-- A datagram at `tx.ack_in`: an ACK (R92); under 4 bytes is illegal (R97). -/
def decodeAckIn : Datagram → Except DecodeError Instr
  | b0 :: b1 :: b2 :: b3 :: rest => .ok (.ack (unbe32 b0 b1 b2 b3) rest)
  | _ => .error .malformedAck

/-- The decoder.  The port, not the content, tells the two wire formats apart (R95). -/
def decode : Encoded → Except DecodeError Instr
  | .event op len data => decodeEvent op len data
  | .datagram .pktIn d => decodePktIn d
  | .datagram .ackIn d => decodeAckIn d

/-- An event with its `len` filled in (R98). -/
def mkEvent (op : Byte) (data : Bytes) : Encoded :=
  .event op data.length data

/-- The encoder, from the tables of R90, R92, R94 and R99. -/
def encode : Instr → Encoded
  | .crc32 payload => mkEvent 0x00#8 payload
  | .encPkt seq checksum payload => mkEvent 0x01#8 (be32 seq ++ be32 checksum ++ payload)
  | .decPkt d => mkEvent 0x02#8 d
  | .encAck seq => mkEvent 0x03#8 (be32 seq)
  | .decAck d => mkEvent 0x04#8 d
  | .txReset => mkEvent 0x10#8 []
  | .txStart => mkEvent 0x11#8 []
  | .txAck d => mkEvent 0x12#8 d
  | .txTimeout => mkEvent 0x13#8 []
  | .txTick => mkEvent 0x14#8 []
  | .txIofault => mkEvent 0x15#8 []
  | .rxReset => mkEvent 0x20#8 []
  | .rxStart => mkEvent 0x21#8 []
  | .rxPkt d => mkEvent 0x22#8 d
  | .rxIofault => mkEvent 0x23#8 []
  | .pktData seq checksum payload => .datagram .pktIn (be32 seq ++ be32 checksum ++ payload)
  | .pktEom seq => .datagram .pktIn (be32 seq ++ [0xFF#8, 0x00#8, 0x00#8, 0x00#8, 0xFF#8])
  | .ack seq rest => .datagram .ackIn (be32 seq ++ rest)

/-- The low `n` bytes of a number, most significant first: the wire formats are numbered as one big-endian word
(R90: "the most significant bit of byte 0" is the highest bit). -/
def bytesOfNat : Nat → Nat → Bytes
  | 0, _ => []
  | n + 1, w => BitVec.ofNat 8 (w >>> (8 * n)) :: bytesOfNat n w

/-- The operand of zeros that goes with a bare selector: ENC_PKT and ENC_ACK need their number fields (R98). -/
def zeroOperand (op : Byte) : Bytes :=
  match op.toNat with
  | 0x01 => List.replicate 8 0#8
  | 0x03 => List.replicate 4 0#8
  | _ => []

/-- A word of spec/opcode_table.json as the block receives it: 8 bits are a selector, 32 an ACK, 64 the header of
PKT.DATA (an empty payload), 72 a PKT.EOM (log entry 5). -/
def tableWord (nbits w : Nat) : Option Encoded :=
  if nbits = 8 then some (mkEvent (BitVec.ofNat 8 w) (zeroOperand (BitVec.ofNat 8 w)))
  else if nbits = 32 then some (.datagram .ackIn (bytesOfNat 4 w))
  else if nbits = 64 then some (.datagram .pktIn (bytesOfNat 8 w))
  else if nbits = 72 then some (.datagram .pktIn (bytesOfNat 9 w))
  else none

/-- The instruction the decoder reads from an opcode-table word. -/
def decodeTableWord (nbits w : Nat) : Option Instr :=
  match tableWord nbits w with
  | some e => match decode e with
    | .ok i => some i
    | .error _ => none
  | none => none

end Sys2Proof
end

