-- ==== Sys2Proof/Config.lean ====
section
/-! DEFINITION. What one implementation of the block fixes (the OPEN parameters of R9, D8 and D18), and the
model's free values.  A `Build` is held in the state and no step changes it, so that every claim quantifies over
every implementation (log entry 2). -/

namespace Sys2Proof.Config

/-- Which configuration values START tests, a point on which the spec's own rules differ (log entry 24). -/
inductive StartTest where
  /-- R40, R222: every configuration register must hold a value of its legal range, `CORRUPT_IDX` and the corrupt-list
  entries past `CORRUPT_LEN` among them. -/
  | everyRegister
  /-- R142's pseudocode, R196: the values the session latches, and `CORRUPT_LEN`. -/
  | latchedValues
  deriving DecidableEq, Repr

/-- The OPEN build parameters (R9; 92_eei_decisions.md D8, D18).  "A model takes them as arguments". -/
structure Build where
  /-- `MAX_PAYLOAD`: largest payload the datagram ports can carry, in bytes; at least 1. -/
  maxPayload : Nat
  /-- `MAX_SWS`: window slots built into TX; at least 1. -/
  maxSws : Nat
  /-- `MAX_RWS`: reorder slots built into RX; at least 1. -/
  maxRws : Nat
  /-- `MAX_CORRUPT`: corrupt-list entries built into TX; may be 0. -/
  maxCorrupt : Nat
  /-- The reading of the retransmission timer (R208, R209): `true` timed, `false` untimed. -/
  timed : Bool
  /-- Which configuration values TX_START tests.  DESIGN CHOICE (log entry 24): the spec's rules differ, and the model
  takes both readings. -/
  startTest : StartTest
  deriving DecidableEq, Repr

/-- The legal range of each build parameter (R9). -/
abbrev Build.Legal (b : Build) : Prop :=
  1 ≤ b.maxPayload ∧ 1 ≤ b.maxSws ∧ 1 ≤ b.maxRws

/-- The build `State.reset` is made of.  DESIGN CHOICE (log entry 2): the spec fixes none of these numbers; the
first three are the widest the registers and rules R24, R32, R40 have room for.  Its START tests every register, as R40
says (log entry 24). -/
def defaultBuild : Build :=
  { maxPayload := 4294967295, maxSws := 2147483648, maxRws := 2147483648, maxCorrupt := 16, timed := true,
    startTest := .everyRegister }

/-- FREE VALUE (log entry 7): what a host read of `CORRUPT_VAL` returns while `CORRUPT_IDX` selects an entry that
the block does not have.  The spec states no value there.  It has no body, so no proof can use its value. -/
opaque freeWord : Nat → Word

end Sys2Proof.Config
end

