-- ==== Sys2Proof/Machine/State.lean ====
section
/-! DEFINITION. The state of the block as plain data (R20 to R42), the reasons a step can stop, and the state after
power-on. -/

namespace Sys2Proof.Machine

/-- The phases of TX (R21), the control state of the sender. -/
inductive TxPhase where
  | idle | wait | done | gaveup | fault
  deriving DecidableEq, Repr

/-- The phases of RX (R21), the control state of the receiver. -/
inductive RxPhase where
  | idle | listen | done | fault
  deriving DecidableEq, Repr

/-- The fatal faults (R190); `tx.fault` and `rx.fault` hold one of them or none (R22, R30). -/
inductive FatalFault where
  | configError | ioFault | seqExhausted
  deriving DecidableEq, Repr

/-- The two engines (R20). -/
inductive Engine where
  | tx | rx
  deriving DecidableEq, Repr

/-- The two datagram output ports (R63). -/
inductive OutPort where
  /-- `tx.pkt_out`, the start of the forward channel. -/
  | pktOut
  /-- `rx.ack_out`, the start of the reverse channel. -/
  | ackOut
  deriving DecidableEq, Repr

/-- A packet record `(seq, checksum, payload)` (R26, R130). -/
structure Packet where
  seq : Int
  checksum : Word
  payload : Bytes
  deriving DecidableEq, Repr

/-- A store: a finite map keyed by sequence number (R13, R74), as a list with strictly rising keys. -/
abbrev Store (α : Type) := List (Int × α)

/-- The datagrams in flight in one direction: a multiset (R75), as a list in rising lexicographic order. -/
abbrev Channel := List Datagram

/-- The TX registers (R21 to R29). -/
structure TxState where
  phase : TxPhase
  fault : Option FatalFault
  base : Nat
  nextSeqNum : Nat
  eomQueued : Bool
  eomSeq : Nat
  window : Store Packet
  cursor : Nat
  timerArmed : Bool
  timerCnt : Nat
  finalTimeouts : Nat
  deriving DecidableEq, Repr

/-- TX after TX_RESET (R42, R141). -/
def TxState.init : TxState :=
  { phase := .idle, fault := none, base := 0, nextSeqNum := 0, eomQueued := false, eomSeq := 0, window := [],
    cursor := 0, timerArmed := false, timerCnt := 0, finalTimeouts := 0 }

/-- The session parameters TX_START latches (R79, R142).  `finalTimeouts = none` is `UNLIMITED`. -/
structure TxParams where
  pktSize : Nat
  sws : Nat
  rttTicks : Nat
  timeoutTicks : Nat
  finalTimeouts : Option Nat
  corruptSet : List Int
  deriving DecidableEq, Repr

/-- The TX configuration registers 0x10 to 0x16 (R40); `corruptList` is the list behind `CORRUPT_VAL`. -/
structure TxCfg where
  pktSize : Word
  sws : Word
  rttTicks : Word
  finalTimeouts : Word
  corruptLen : Word
  corruptIdx : Word
  corruptList : List Word
  deriving DecidableEq, Repr

/-- The RX registers (R21, R30 to R33). -/
structure RxState where
  phase : RxPhase
  fault : Option FatalFault
  lfr : Int
  laf : Int
  buf : Store Bytes
  deriving DecidableEq, Repr

/-- RX after RX_RESET (R42, R171). -/
def RxState.init : RxState :=
  { phase := .idle, fault := none, lfr := -1, laf := -1, buf := [] }

/-- The session parameter RX_START latches (R79, R172). -/
structure RxParams where
  rws : Nat
  deriving DecidableEq, Repr

/-- The RX configuration register 0x20 (R40). -/
structure RxCfg where
  rws : Word
  deriving DecidableEq, Repr

/-- One thing an operation does at a port, in the order it does them (R101).  A sink write of no bytes is one too: DESIGN
CHOICE (log entry 25). -/
inductive Effect where
  | pktOut (d : Datagram)
  | ackOut (d : Datagram)
  | sink (bytes : Bytes)
  deriving DecidableEq, Repr

/-- The outcome labels (R14, R101, R190). -/
inductive Label where
  | reset | started | advance | stale | malformedAck | done | tick
  | retransmit (n : Nat) | gaveup
  | malformed | badcrc | eom | accept (k : Nat) | oow
  | fault (f : FatalFault)
  deriving DecidableEq, Repr

/-- What the event interface or the register interface answers (R99 "result", R39). -/
inductive Result where
  | checksum (c : Word)
  | datagram (d : Datagram)
  | packet (p : Packet)
  | ackValue (v : Int)
  | malformedPacket
  | malformedAck
  | register (v : Word)
  deriving DecidableEq, Repr

/-- The trace line of the last operation (R14, R101): its labels, its effects in order and its result.  THE MODEL'S
OWN, not a register of the block: no operation reads it (log entry 6). -/
structure Reply where
  labels : List Label
  effects : List Effect
  result : Option Result
  deriving DecidableEq, Repr

/-- No operation yet. -/
def Reply.empty : Reply :=
  { labels := [], effects := [], result := none }

/-- The machine: the two engines (R20), their configuration (R40) and latched parameters (R79), the host's streams
(R66, R67), the sequences sent on the output ports (R72), the two channels (R75), what the environment does next
(R202), and two fields of the model's own (`last`, `freeCount`). -/
structure State where
  /-- The build parameters: fixed, no step changes them (R9; log entry 2). -/
  build : Config.Build
  tx : TxState
  txPar : TxParams
  txCfg : TxCfg
  rx : RxState
  rxPar : RxParams
  rxCfg : RxCfg
  /-- `SRC`, the source stream (R66). -/
  src : Bytes
  /-- `OUT`, the output sink (R67). -/
  out : Bytes
  /-- Every datagram sent on `tx.pkt_out`, oldest first (R72). -/
  pktOut : List Datagram
  /-- Every datagram sent on `rx.ack_out`, oldest first (R72). -/
  ackOut : List Datagram
  /-- The forward channel, from `tx.pkt_out` to `rx.pkt_in` (R75). -/
  forward : Channel
  /-- The reverse channel, from `rx.ack_out` to `tx.ack_in` (R75). -/
  reverse : Channel
  /-- What the environment does next, first one first (R202, R210; log entry 4). -/
  inputs : List Input
  /-- THE MODEL'S OWN: the trace line of the last operation (log entry 6). -/
  last : Reply
  /-- THE MODEL'S OWN: how many free values have been read (log entry 7). -/
  freeCount : Nat
  deriving DecidableEq, Repr

/-- Power-on with given build parameters and given contents of the configuration registers, which the spec leaves
unspecified at power-on (R42, R220; 93_implementation_defined.md X4). -/
def State.powerOn (build : Config.Build) (txCfg : TxCfg) (rxCfg : RxCfg) : State :=
  { build := build, tx := TxState.init,
    txPar := { pktSize := 0, sws := 0, rttTicks := 0, timeoutTicks := 0, finalTimeouts := none, corruptSet := [] },
    txCfg := txCfg, rx := RxState.init, rxPar := { rws := 0 }, rxCfg := rxCfg,
    src := [], out := [], pktOut := [], ackOut := [], forward := [], reverse := [], inputs := [],
    last := Reply.empty, freeCount := 0 }

/-- The TX configuration registers of `State.reset`: the defaults the spec names (`FINAL_TIMEOUTS` 1, an empty corrupt
list, R9), zero where it names none.  DESIGN CHOICE (log entry 3). -/
def TxCfg.atPowerOn (maxCorrupt : Nat) : TxCfg :=
  { pktSize := 0#32, sws := 0#32, rttTicks := 0#32, finalTimeouts := 1#32, corruptLen := 0#32, corruptIdx := 0#32,
    corruptList := List.replicate maxCorrupt 0#32 }

/-- The machine right after power-on (R42, R220): every engine register at its value of R42; the build of log
entry 2 and the configuration contents of log entry 3. -/
def State.reset : State :=
  State.powerOn Config.defaultBuild (TxCfg.atPowerOn Config.defaultBuild.maxCorrupt) { rws := 0#32 }

/-- Why the machine has no step.  Each is "no transition" in the spec: a stuck state, safe. -/
inductive Fault where
  /-- Raised by the meaning of an operation that is not enabled in the current phase: R203, "An operation that is
  not enabled has no transition".  Safe: nothing can be concluded from the event (log entry 8). -/
  | notEnabled
  /-- Raised by `step` for a selector that R99 does not list: R100, "the block does not accept the event (it has no
  transition)".  Safe (log entry 9). -/
  | reservedSelector
  /-- Raised by `step` for a channel move on a datagram that is not in flight: R75 has no such move.  Safe
  (log entry 14). -/
  | noSuchDatagram
  deriving DecidableEq, Repr

/-- Why the model does not admit an input.  Each is a premise of the spec's rules; all are safe. -/
inductive Refusal where
  /-- An instruction without a meaning; no arm of `exec` answers it. -/
  | notModelled (mnemonic : String)
  /-- Raised by `step` for a triple that is not an event of R98 (its `len` or its operand does not fit).  Safe
  (log entry 10). -/
  | malformedEvent
  /-- Raised by `step` for an operand longer than the rules admit: R73 "The port cannot present a longer
  datagram" (93_implementation_defined.md X7, `refuse`).  Safe (log entry 11). -/
  | operandTooLong
  /-- Raised by `step` when the host would change `SRC` while TX is not idle: R66 "fixed for the session"
  (93_implementation_defined.md X19, `refuse`).  Safe (log entry 12). -/
  | sourceInUse
  /-- Raised by `step` when the host would replace `OUT` while RX is not idle: R67 (X19, `refuse`).  Safe
  (log entry 12). -/
  | sinkInUse
  deriving DecidableEq, Repr

/-- What `exec` and `step` answer. -/
abbrev Answer := Host.Outcome State Fault Refusal

end Sys2Proof.Machine
end

