-- ==== Sys2Proof/Machine/Operands.lean ====
section
/-! DEFINITION. The CODEC functions and helper predicates the operations use on their operands (R121 to R132). -/

namespace Sys2Proof.Machine

/-- `SEQ_MAX`: the largest sequence number the sender assigns (R9). -/
def seqMax : Nat := 2147483647

/-- The sentinel payload of the end-marker (R10, R94). -/
def eomPayload : Bytes := [0xFF#8]

/-- `u32(v)` as a pattern (R12). -/
def u32 (v : Int) : Word := BitVec.ofInt 32 v

/-- `s32(w)`: the pattern read as a two's-complement number (R12). -/
def s32 (w : Word) : Int := w.toInt

/-- One shift of the CRC register: the body of the inner loop of R121. -/
def crcBit (crc : Word) : Word :=
  if crc.getLsbD 0 then (crc >>> 1) ^^^ 0xEDB88320#32 else crc >>> 1

/-- The inner loop of R121 run `n` times. -/
def crcBits : Nat → Word → Word
  | 0, crc => crc
  | n + 1, crc => crcBits n (crcBit crc)

/-- One payload byte: it goes into bits [7:0], then eight shifts (R121). -/
def crcByte (crc : Word) (b : Byte) : Word :=
  crcBits 8 (crc ^^^ b.setWidth 32)

/-- `CRC32(payload)` (R121). -/
def crc32 (payload : Bytes) : Word :=
  payload.foldl crcByte 0xFFFFFFFF#32 ^^^ 0xFFFFFFFF#32

/-- `ENC_PKT(seq, checksum, payload)` (R123). -/
def encPkt (p : Packet) : Datagram :=
  be32 (u32 p.seq) ++ be32 p.checksum ++ p.payload

/-- `DEC_PKT(d)` (R124); `none` is `err(MalformedPacketError)`. -/
def decPkt : Datagram → Option Packet
  | b0 :: b1 :: b2 :: b3 :: c0 :: c1 :: c2 :: c3 :: payload =>
    some { seq := s32 (unbe32 b0 b1 b2 b3), checksum := unbe32 c0 c1 c2 c3, payload := payload }
  | _ => none

/-- `ENC_ACK(v)` (R125). -/
def encAck (v : Int) : Datagram :=
  be32 (u32 v)

/-- `DEC_ACK(d)` (R126); `none` is `err(MalformedAck)`. -/
def decAck : Datagram → Option Int
  | b0 :: b1 :: b2 :: b3 :: _ => some (s32 (unbe32 b0 b1 b2 b3))
  | _ => none

/-- `VERIFY(checksum, payload)` (R129). -/
def verify (checksum : Word) (payload : Bytes) : Bool :=
  crc32 payload == checksum

/-- `MK_PKT(n, P)` (R130). -/
def mkPkt (n : Int) (payload : Bytes) : Packet :=
  { seq := n, checksum := crc32 payload, payload := payload }

/-- `IS_EOM(payload)` (R131). -/
def isEom (payload : Bytes) : Bool :=
  payload == eomPayload

/-- `CORRUPT(d)`: bit 0 of the byte at offset 8 inverted (R132). -/
def corrupt : Datagram → Datagram
  | b0 :: b1 :: b2 :: b3 :: b4 :: b5 :: b6 :: b7 :: b8 :: rest =>
    b0 :: b1 :: b2 :: b3 :: b4 :: b5 :: b6 :: b7 :: (b8 ^^^ 0x01#8) :: rest
  | d => d

/-- The datagram of the wire format PKT.DATA (R90). -/
def pktDataBytes (seq checksum : Word) (payload : Bytes) : Datagram :=
  be32 seq ++ be32 checksum ++ payload

/-- The datagram of the wire format PKT.EOM: `be32(n) ++ FF 00 00 00 ++ FF` (R94). -/
def pktEomBytes (seq : Word) : Datagram :=
  be32 seq ++ [0xFF#8, 0x00#8, 0x00#8, 0x00#8, 0xFF#8]

/-- The datagram of the wire format ACK, with what follows its fourth byte (R92, R97). -/
def ackBytes (seq : Word) (rest : Bytes) : Datagram :=
  be32 seq ++ rest

end Sys2Proof.Machine
end

