-- ==== Sys2Proof/Machine/Flags.lean ====
section
/-! DEFINITION. The block has no condition codes (R34): what takes their place are the phase and fault codes
(R21, R22), the enabling conditions (R140, R170), the legality of a configuration (R142, R172) and the classes of an
arriving data datagram (R96). -/

namespace Sys2Proof.Machine

/-- The 3-bit code of `tx.phase` (R21). -/
def TxPhase.code : TxPhase → BitVec 3
  | .idle => 0#3
  | .wait => 1#3
  | .done => 2#3
  | .gaveup => 3#3
  | .fault => 4#3

/-- The 2-bit code of `rx.phase` (R21). -/
def RxPhase.code : RxPhase → BitVec 2
  | .idle => 0#2
  | .listen => 1#2
  | .done => 2#2
  | .fault => 3#2

/-- The 2-bit code of a `fault` register (R22, R30, R190). -/
def faultCode : Option FatalFault → BitVec 2
  | none => 0#2
  | some .configError => 1#2
  | some .ioFault => 2#2
  | some .seqExhausted => 3#2

/-- TX_START is enabled (R140). -/
def txStartEnabled (s : State) : Bool :=
  s.tx.phase == .idle

/-- TX_ACK is enabled (R140). -/
def txAckEnabled (s : State) : Bool :=
  s.tx.phase == .wait

/-- TX_TICK is enabled (R140); it does not exist in the untimed reading (R209). -/
def txTickEnabled (s : State) : Bool :=
  s.build.timed && s.tx.phase == .wait && decide (0 < s.tx.timerCnt)

/-- TX_TIMEOUT is enabled (R140); in the untimed reading, whenever TX waits (R209). -/
def txTimeoutEnabled (s : State) : Bool :=
  s.tx.phase == .wait && (!s.build.timed || s.tx.timerCnt == 0)

/-- TX_IOFAULT is enabled (R140). -/
def txIofaultEnabled (s : State) : Bool :=
  s.tx.phase == .idle || s.tx.phase == .wait

/-- RX_START is enabled (R170). -/
def rxStartEnabled (s : State) : Bool :=
  s.rx.phase == .idle

/-- RX_PKT is enabled (R170). -/
def rxPktEnabled (s : State) : Bool :=
  s.rx.phase == .listen

/-- RX_IOFAULT is enabled (R170). -/
def rxIofaultEnabled (s : State) : Bool :=
  s.rx.phase == .idle || s.rx.phase == .listen

/-- The registers that no session parameter is latched from hold legal values, where TX_START tests them: `CORRUPT_IDX`
selects an entry, and no entry of the corrupt list, in `CORRUPT_SET` or past `CORRUPT_LEN`, has bit 31 set (R40).  DESIGN
CHOICE (log entry 24): R40 has them rejected at start, R142's list of tests does not name them, and the build says which. -/
def txUnlatchedLegal (b : Config.Build) (c : TxCfg) : Bool :=
  match b.startTest with
  | .everyRegister => decide (c.corruptIdx.toNat < b.maxCorrupt) && c.corruptList.all fun w => decide (w.toNat ≤ seqMax)
  | .latchedValues => true

/-- The test of TX_START on the registers and on the values it has latched from them (R40, R142). -/
def txConfigLegal (b : Config.Build) (c : TxCfg) (p : TxParams) : Bool :=
  decide (1 ≤ p.pktSize) && decide (p.pktSize ≤ b.maxPayload) && decide (1 ≤ p.sws) && decide (p.sws ≤ b.maxSws) &&
    decide (1 ≤ p.rttTicks) && decide (c.corruptLen.toNat ≤ b.maxCorrupt) &&
    (p.corruptSet.all fun k => decide (0 ≤ k) && decide (k ≤ seqMax)) && txUnlatchedLegal b c

/-- The test of RX_START on the value it has latched (R172). -/
def rxConfigLegal (b : Config.Build) (p : RxParams) : Bool :=
  decide (1 ≤ p.rws) && decide (p.rws ≤ b.maxRws)

/-- The end-marker has been acknowledged: the termination test of TX_ACK (R144). -/
def txFinished (s : State) : Bool :=
  s.tx.eomQueued && decide (s.tx.eomSeq < s.tx.base)

/-- The classes of an arriving data datagram (R96). -/
inductive PktClass where
  | malformed
  | badcrc
  | eom
  | accept (seq : Int) (payload : Bytes)
  | oow
  deriving DecidableEq, Repr

/-- The class of `d` for a receiver whose window is `(lfr, laf]`, tested in the order of R96 and R204. -/
def classify (lfr laf : Int) (d : Datagram) : PktClass :=
  match decPkt d with
  | none => .malformed
  | some p =>
    if !verify p.checksum p.payload then .badcrc
    else if isEom p.payload then .eom
    else if lfr < p.seq ∧ p.seq ≤ laf then .accept p.seq p.payload
    else .oow

end Sys2Proof.Machine
end

