-- ==== Sys2Proof/Machine/Ops.lean ====
section
/-! DEFINITION. The named operations: the stores (R68 to R71), the channels (R75), the ports (R66, R67, R72), fault
entry (R199), the engines' resets (R141, R171) and the window fill (R143). -/

namespace Sys2Proof.Machine

/-! ## Stores -/

/-- The canonical form of a store: strictly rising keys. -/
abbrev Store.WF {α : Type} (m : Store α) : Prop :=
  m.Pairwise fun e f => e.1 < f.1

/-- The entry bound to `k`. -/
def Store.get {α : Type} (k : Int) : Store α → Option α
  | [] => none
  | e :: m => if e.1 = k then some e.2 else Store.get k m

/-- `k` bound to `v`, in place of an earlier binding of `k` (R68, R70). -/
def Store.put {α : Type} (k : Int) (v : α) : Store α → Store α
  | [] => [(k, v)]
  | e :: m =>
    if k < e.1 then (k, v) :: e :: m
    else if k = e.1 then (k, v) :: m
    else e :: Store.put k v m

/-- The key `k` removed (R71). -/
def Store.erase {α : Type} (k : Int) (m : Store α) : Store α :=
  m.filter fun e => e.1 != k

/-- The entries with key at least `b` (R69). -/
def Store.keepFrom {α : Type} (b : Int) (m : Store α) : Store α :=
  m.filter fun e => decide (b ≤ e.1)

/-! ## Channels -/

/-- The lexicographic order of byte strings: it only fixes how a multiset of datagrams is written. -/
def bytesLe : Bytes → Bytes → Bool
  | [], _ => true
  | _ :: _, [] => false
  | a :: as, b :: bs => decide (a.toNat < b.toNat) || (a == b && bytesLe as bs)

/-- The canonical form of a channel. -/
abbrev Channel.WF (c : Channel) : Prop :=
  c.Pairwise fun d e => bytesLe d e = true

/-- One more copy of `d` in flight. -/
def Channel.add (d : Datagram) : Channel → Channel
  | [] => [d]
  | e :: c => if bytesLe d e then d :: e :: c else e :: Channel.add d c

/-- One copy of `d` fewer in flight; nothing where there is none. -/
def Channel.remove (d : Datagram) (c : Channel) : Channel :=
  c.erase d

/-- The channel that ends at a port. -/
def State.channel (p : Port) (s : State) : Channel :=
  match p with
  | .pktIn => s.forward
  | .ackIn => s.reverse

/-- The channel that ends at a port, replaced. -/
def State.setChannel (p : Port) (c : Channel) (s : State) : State :=
  match p with
  | .pktIn => { s with forward := c }
  | .ackIn => { s with reverse := c }

/-- The datagram an arrival operation works on leaves the channel (R73, R203). -/
def takeDatagram (p : Port) (d : Datagram) (s : State) : State :=
  s.setChannel p (Channel.remove d (s.channel p))

/-! ## The trace line of an operation (log entry 6) -/

/-- A new trace line. -/
def clearReply (s : State) : State :=
  { s with last := Reply.empty }

/-- The outcome labels of the operation (R14). -/
def setLabels (ls : List Label) (s : State) : State :=
  { s with last := { s.last with labels := ls } }

/-- The result the interface answers (R99). -/
def setResult (r : Result) (s : State) : State :=
  { s with last := { s.last with result := some r } }

/-- One more effect of the operation (R101). -/
def recordEffect (e : Effect) (s : State) : State :=
  { s with last := { s.last with effects := s.last.effects ++ [e] } }

/-- An operation that is not enabled has no transition (R203). -/
def whenEnabled (enabled : Bool) (f : State → State) (s : State) : Answer :=
  if enabled then .next (f (clearReply s)) else .fault .notEnabled

/-! ## Ports -/

/-- `Emit(port, s)`: the datagram joins the sequence sent on the port and belongs to the channel from there (R72). -/
def emit (p : OutPort) (d : Datagram) (s : State) : State :=
  match p with
  | .pktOut => recordEffect (.pktOut d) { s with pktOut := s.pktOut ++ [d], forward := Channel.add d s.forward }
  | .ackOut => recordEffect (.ackOut d) { s with ackOut := s.ackOut ++ [d], reverse := Channel.add d s.reverse }

/-- `SinkWrite(s)` (R67).  An empty string leaves `OUT` unchanged; that the trace line records it all the same, as an empty
sink write, is a DESIGN CHOICE (log entry 25). -/
def sinkWrite (bytes : Bytes) (s : State) : State :=
  recordEffect (.sink bytes) { s with out := s.out ++ bytes }

/-- The bytes `SrcRead(n)` finds: `SRC[c..c+m)` with `m = min(n, len(SRC) - c)` (R66). -/
def srcChunk (n : Nat) (s : State) : Bytes :=
  (s.src.drop s.tx.cursor).take n

/-- `SrcRead(n)`: a chunk and the cursor moved past it, or `none` (`eof`) and nothing changed (R66). -/
def srcRead (n : Nat) (s : State) : Option Bytes × State :=
  if srcChunk n s = [] then (none, s)
  else (some (srcChunk n s), { s with tx := { s.tx with cursor := s.tx.cursor + (srcChunk n s).length } })

/-- `WinPut(p)` (R68). -/
def winPut (p : Packet) (s : State) : State :=
  { s with tx := { s.tx with window := Store.put p.seq p s.tx.window } }

/-- `WinEvictBelow(b)` (R69). -/
def winEvictBelow (b : Nat) (s : State) : State :=
  { s with tx := { s.tx with window := Store.keepFrom b s.tx.window } }

/-- `WinAscending()` (R69): the store is kept in ascending key order. -/
def winAscending (s : State) : List Packet :=
  s.tx.window.map Prod.snd

/-- `BufPut(k, s)` (R70). -/
def bufPut (k : Int) (payload : Bytes) (s : State) : State :=
  { s with rx := { s.rx with buf := Store.put k payload s.rx.buf } }

/-- `BufHas(k)` (R71). -/
def bufHas (k : Int) (s : State) : Bool :=
  (Store.get k s.rx.buf).isSome

/-- `BufTake(k)`, called only when `BufHas(k)` (R71). -/
def bufTake (k : Int) (s : State) : Bytes × State :=
  ((Store.get k s.rx.buf).getD [], { s with rx := { s.rx with buf := Store.erase k s.rx.buf } })

/-! ## Fault entry and reset -/

/-- `raise F` (R199): the fault code, the engine's FAULT phase, the timer disarmed; what was written stands. -/
def raise (e : Engine) (f : FatalFault) (s : State) : State :=
  match e with
  | .tx => setLabels [.fault f]
      { s with tx := { s.tx with fault := some f, phase := .fault, timerArmed := false, timerCnt := 0 } }
  | .rx => setLabels [.fault f] { s with rx := { s.rx with fault := some f, phase := .fault } }

/-- The engine's reset, the only way out of a FAULT phase (R141, R171, R201). -/
def resetEngine (e : Engine) (s : State) : State :=
  match e with
  | .tx => setLabels [.reset] { s with tx := TxState.init }
  | .rx => setLabels [.reset] { s with rx := RxState.init }

/-! ## Filling the window -/

/-- How a sub-operation ends: it completes, or it executed `raise` and the operation ends there (R14). -/
inductive Flow where
  | completed (s : State)
  | raised (s : State)
  deriving DecidableEq, Repr

/-- What leaves `tx.pkt_out` the first time: corrupted when its number is in `CORRUPT_SET` (R143). -/
def firstTransmission (corruptSet : List Int) (p : Packet) : Datagram :=
  if p.seq ∈ corruptSet then corrupt (encPkt p) else encPkt p

/-- The end of one iteration of TX_FILL: store, transmit, count (R143). -/
def sendNew (p : Packet) (s : State) : State :=
  let s := emit .pktOut (firstTransmission s.txPar.corruptSet p) (winPut p s)
  { s with tx := { s.tx with nextSeqNum := s.tx.nextSeqNum + 1 } }

/-- One iteration of TX_FILL past its SeqExhausted test: a chunk or the end-marker (R143). -/
def txFillOne (s : State) : State :=
  match srcRead s.txPar.pktSize s with
  | (some chunk, s) => sendNew (mkPkt s.tx.nextSeqNum chunk) s
  | (none, s) =>
    sendNew (mkPkt s.tx.nextSeqNum eomPayload)
      { s with tx := { s.tx with eomQueued := true, eomSeq := s.tx.nextSeqNum } }

/-- The loop condition of TX_FILL (R143). -/
def txFillMore (s : State) : Bool :=
  decide (s.tx.window.length < s.txPar.sws) && !s.tx.eomQueued

/-- TX_FILL with at most `fuel` iterations (R143). -/
def txFillLoop : Nat → State → Flow
  | 0, s => .completed s
  | fuel + 1, s =>
    if txFillMore s then
      if seqMax < s.tx.nextSeqNum then .raised (raise .tx .seqExhausted s)
      else txFillLoop fuel (txFillOne s)
    else .completed s

/-- TX_FILL (R143).  An iteration takes at least one source byte or queues the end-marker, so the bytes that are
left, and one more, bound the iterations (`txFill_exit` under Laws). -/
def txFill (s : State) : Flow :=
  txFillLoop (s.src.length - s.tx.cursor + 1) s

/-- What follows TX_FILL in an operation: `f` when it completed; a `raise` ends the operation (R14). -/
def Flow.andThen (f : State → State) : Flow → State
  | .completed s => f s
  | .raised s => s

/-! ## The retransmission timer -/

/-- The timer (re)loaded for one bounded wait (R207). -/
def loadTimer (s : State) : State :=
  { s with tx := { s.tx with timerCnt := s.txPar.timeoutTicks } }

/-- The session ends in a terminal phase and the timer is disarmed (R144, R146, R207). -/
def endSession (ph : TxPhase) (s : State) : State :=
  { s with tx := { s.tx with phase := ph, timerArmed := false, timerCnt := 0 } }

end Sys2Proof.Machine
end

