-- ==== Sys2Proof/Machine/Codec.lean ====
section
/-! DEFINITION. The CODEC operations (R120 to R126): pure, always enabled; they answer a result and change nothing. -/

namespace Sys2Proof.Machine

/-- CRC32 (R121). -/
def execCrc32 (payload : Bytes) (s : State) : Answer :=
  whenEnabled true (setResult (.checksum (crc32 payload))) s

/-- ENC_PKT (R123); the operand's sequence number is read as R91 reads it. -/
def execEncPkt (seq checksum : Word) (payload : Bytes) (s : State) : Answer :=
  whenEnabled true (setResult (.datagram (encPkt { seq := s32 seq, checksum := checksum, payload := payload }))) s

/-- DEC_PKT (R124). -/
def execDecPkt (d : Datagram) (s : State) : Answer :=
  whenEnabled true
    (setResult (match decPkt d with
      | some p => .packet p
      | none => .malformedPacket)) s

/-- ENC_ACK (R125). -/
def execEncAck (seq : Word) (s : State) : Answer :=
  whenEnabled true (setResult (.datagram (encAck (s32 seq)))) s

/-- DEC_ACK (R126). -/
def execDecAck (d : Datagram) (s : State) : Answer :=
  whenEnabled true
    (setResult (match decAck d with
      | some v => .ackValue v
      | none => .malformedAck)) s

end Sys2Proof.Machine
end

