-- ==== Sys2Proof/Machine/Receiver.lean ====
section
/-! DEFINITION. The RX operations (R170 to R180). -/

namespace Sys2Proof.Machine

/-- `Emit(rx.ack_out, ENC_ACK(rx.LFR))` (R174). -/
def emitAck (s : State) : State :=
  emit .ackOut (encAck s.rx.lfr) s

/-- The body of RX_START (R172). -/
def rxStartBody (s : State) : State :=
  let s := { s with rxPar := { s.rxPar with rws := s.rxCfg.rws.toNat } }
  if rxConfigLegal s.build s.rxPar then
    setLabels [.started] { s with rx := { s.rx with laf := s.rx.lfr + s.rxPar.rws, phase := .listen } }
  else raise .rx .configError s

/-- REJECT, for a malformed, corrupted, duplicate or out-of-window datagram (R174, R177). -/
def reject (l : Label) (s : State) : State :=
  setLabels [l] (emitAck s)

/-- ACCEPT_EOM (R175). -/
def acceptEom (s : State) : State :=
  let s := emitAck { s with rx := { s.rx with lfr := s.rx.lfr + 1 } }
  setLabels [.eom] { s with rx := { s.rx with phase := .done } }

/-- One iteration of the drain: frame `LFR + 1` leaves the buffer, reaches the sink and is acknowledged (R176). -/
def deliverNext (s : State) : State :=
  let s := { s with rx := { s.rx with lfr := s.rx.lfr + 1 } }
  let taken := bufTake s.rx.lfr s
  emitAck (sinkWrite taken.1 taken.2)

/-- The drain with at most `fuel` iterations, and how many it made (R176). -/
def drainLoop : Nat → State → Nat × State
  | 0, s => (0, s)
  | fuel + 1, s =>
    if bufHas (s.rx.lfr + 1) s then
      let r := drainLoop fuel (deliverNext s)
      (r.1 + 1, r.2)
    else (0, s)

/-- The drain of R176.  Each iteration removes a key, so the number of entries bounds the iterations
(`drain_exit` under Laws). -/
def drain (s : State) : Nat × State :=
  drainLoop s.rx.buf.length s

/-- ACCEPT_AND_DRAIN (R176). -/
def acceptAndDrain (seq : Int) (payload : Bytes) (s : State) : State :=
  let r := drain (bufPut seq payload s)
  setLabels [.accept r.1] { r.2 with rx := { r.2.rx with laf := r.2.rx.lfr + r.2.rxPar.rws } }

/-- The body of RX_PKT: exactly one branch runs (R173). -/
def rxPktBody (d : Datagram) (s : State) : State :=
  match classify s.rx.lfr s.rx.laf d with
  | .malformed => reject .malformed s
  | .badcrc => reject .badcrc s
  | .eom => acceptEom s
  | .accept seq payload => acceptAndDrain seq payload s
  | .oow => reject .oow s

/-- A data datagram is taken from the channel and processed (R173). -/
def rxArrival (d : Datagram) (s : State) : State :=
  rxPktBody d (takeDatagram .pktIn d s)

/-- RX_RESET (R171). -/
def execRxReset (s : State) : Answer :=
  whenEnabled true (resetEngine .rx) s

/-- RX_START (R172). -/
def execRxStart (s : State) : Answer :=
  whenEnabled (rxStartEnabled s) rxStartBody s

/-- RX_PKT (R173). -/
def execRxPkt (d : Datagram) (s : State) : Answer :=
  whenEnabled (rxPktEnabled s) (rxArrival d) s

/-- RX_IOFAULT (R178). -/
def execRxIofault (s : State) : Answer :=
  whenEnabled (rxIofaultEnabled s) (raise .rx .ioFault) s

end Sys2Proof.Machine
end

