-- ==== Sys2Proof/Machine/Sender.lean ====
section
/-! DEFINITION. The TX operations (R140 to R150). -/

namespace Sys2Proof.Machine

/-- The entries `0 .. CORRUPT_LEN - 1` of the corrupt list (R40, R142). -/
def corruptEntries (c : TxCfg) : List Int :=
  (c.corruptList.take c.corruptLen.toNat).map fun w => (w.toNat : Int)

/-- The first lines of TX_START: the registers are read once (R79, R142). -/
def latchTx (s : State) : State :=
  { s with txPar := { s.txPar with
      pktSize := s.txCfg.pktSize.toNat
      sws := s.txCfg.sws.toNat
      rttTicks := s.txCfg.rttTicks.toNat
      finalTimeouts := if s.txCfg.finalTimeouts = 0#32 then none else some s.txCfg.finalTimeouts.toNat
      corruptSet := corruptEntries s.txCfg } }

/-- `TIMEOUT_TICKS <- 15 * RTT_TICKS; tx.phase <- TX_WAIT` (R142). -/
def enterWait (s : State) : State :=
  { s with
    txPar := { s.txPar with timeoutTicks := 15 * s.txPar.rttTicks }
    tx := { s.tx with phase := .wait } }

/-- The end of TX_START: the timer is armed and loaded (R142, R207). -/
def armTimer (s : State) : State :=
  loadTimer { s with tx := { s.tx with timerArmed := true } }

/-- The body of TX_START (R142). -/
def txStartBody (s : State) : State :=
  let s := latchTx s
  if txConfigLegal s.build s.txCfg s.txPar then
    (txFill (enterWait s)).andThen fun s => setLabels [.started] (armTimer s)
  else raise .tx .configError s

/-- The first half of TX_ACK: decode, then advance or ignore (R144). -/
def ackAdvance (d : Datagram) (s : State) : Label × State :=
  match decAck d with
  | none => (.malformedAck, s)
  | some a =>
    if (s.tx.base : Int) ≤ a then
      (.advance, winEvictBelow (a + 1).toNat { s with tx := { s.tx with base := (a + 1).toNat } })
    else (.stale, s)

/-- The body of TX_ACK (R144). -/
def txAckBody (d : Datagram) (s : State) : State :=
  let r := ackAdvance d s
  if txFinished r.2 then setLabels [r.1, .done] (endSession .done r.2)
  else (txFill r.2).andThen fun s => setLabels [r.1] (loadTimer s)

/-- An ACK datagram is taken from the channel and processed (R144). -/
def txArrival (d : Datagram) (s : State) : State :=
  txAckBody d (takeDatagram .ackIn d s)

/-- The loop of TX_TIMEOUT: records emitted in the order given, uncorrupted (R146). -/
def resend : List Packet → State → State
  | [], s => s
  | p :: ps, s => resend ps (emit .pktOut (encPkt p) s)

/-- The end of a TX_TIMEOUT that does not give up (R146). -/
def waitAgain (n : Nat) (s : State) : State :=
  (txFill s).andThen fun s => setLabels [.retransmit n] (loadTimer s)

/-- A timeout taken while the end-marker is queued is counted (R29, R146). -/
def countTimeout (s : State) : State :=
  { s with tx := { s.tx with finalTimeouts := s.tx.finalTimeouts + 1 } }

/-- The body of TX_TIMEOUT (R146). -/
def txTimeoutBody (s : State) : State :=
  let n := s.tx.window.length
  let s := resend (winAscending s) s
  match s.tx.eomQueued, s.txPar.finalTimeouts with
  | true, some limit =>
    let s := countTimeout s
    if limit ≤ s.tx.finalTimeouts then setLabels [.retransmit n, .gaveup] (endSession .gaveup s)
    else waitAgain n s
  | _, _ => waitAgain n s

/-- The body of TX_TICK (R145). -/
def txTickBody (s : State) : State :=
  setLabels [.tick] { s with tx := { s.tx with timerCnt := s.tx.timerCnt - 1 } }

/-- TX_RESET (R141). -/
def execTxReset (s : State) : Answer :=
  whenEnabled true (resetEngine .tx) s

/-- TX_START (R142). -/
def execTxStart (s : State) : Answer :=
  whenEnabled (txStartEnabled s) txStartBody s

/-- TX_ACK (R144). -/
def execTxAck (d : Datagram) (s : State) : Answer :=
  whenEnabled (txAckEnabled s) (txArrival d) s

/-- TX_TIMEOUT (R146). -/
def execTxTimeout (s : State) : Answer :=
  whenEnabled (txTimeoutEnabled s) txTimeoutBody s

/-- TX_TICK (R145). -/
def execTxTick (s : State) : Answer :=
  whenEnabled (txTickEnabled s) txTickBody s

/-- TX_IOFAULT (R147). -/
def execTxIofault (s : State) : Answer :=
  whenEnabled (txIofaultEnabled s) (raise .tx .ioFault) s

end Sys2Proof.Machine
end

