-- ==== Sys2Proof/Machine/Wire.lean ====
section
/-! DEFINITION. The wire formats as operations: a datagram of the format arrives at its port (R90, R92, R94, R95).
Everything at `rx.pkt_in` is an RX_PKT, everything at `tx.ack_in` a TX_ACK. -/

namespace Sys2Proof.Machine

/-- PKT.DATA at `rx.pkt_in` (R90, R173). -/
def execPktData (seq checksum : Word) (payload : Bytes) (s : State) : Answer :=
  whenEnabled (rxPktEnabled s) (rxArrival (pktDataBytes seq checksum payload)) s

/-- PKT.EOM at `rx.pkt_in` (R94, R173, R175). -/
def execPktEom (seq : Word) (s : State) : Answer :=
  whenEnabled (rxPktEnabled s) (rxArrival (pktEomBytes seq)) s

/-- ACK at `tx.ack_in` (R92, R144). -/
def execAck (seq : Word) (rest : Bytes) (s : State) : Answer :=
  whenEnabled (txAckEnabled s) (txArrival (ackBytes seq rest)) s

end Sys2Proof.Machine
end

