-- ==== Sys2Proof/Machine/Dispatch.lean ====
section
/-! DEFINITION. `exec`: one arm for each operation. -/

namespace Sys2Proof.Machine

def exec (i : Instr) (s : State) : Host.Outcome State Fault Refusal :=
  match i with
  | .crc32 payload => Sys2Proof.Machine.execCrc32 payload s
  | .encPkt seq checksum payload => Sys2Proof.Machine.execEncPkt seq checksum payload s
  | .decPkt d => Sys2Proof.Machine.execDecPkt d s
  | .encAck seq => Sys2Proof.Machine.execEncAck seq s
  | .decAck d => Sys2Proof.Machine.execDecAck d s
  | .txReset => Sys2Proof.Machine.execTxReset s
  | .txStart => Sys2Proof.Machine.execTxStart s
  | .txAck d => Sys2Proof.Machine.execTxAck d s
  | .txTimeout => Sys2Proof.Machine.execTxTimeout s
  | .txTick => Sys2Proof.Machine.execTxTick s
  | .txIofault => Sys2Proof.Machine.execTxIofault s
  | .rxReset => Sys2Proof.Machine.execRxReset s
  | .rxStart => Sys2Proof.Machine.execRxStart s
  | .rxPkt d => Sys2Proof.Machine.execRxPkt d s
  | .rxIofault => Sys2Proof.Machine.execRxIofault s
  | .pktData seq checksum payload => Sys2Proof.Machine.execPktData seq checksum payload s
  | .pktEom seq => Sys2Proof.Machine.execPktEom seq s
  | .ack seq rest => Sys2Proof.Machine.execAck seq rest s

end Sys2Proof.Machine
end

