-- ==== Sys2Proof/Machine/HostPort.lean ====
section
/-! DEFINITION. The host's side of the block: its register accesses (R39 to R41), the source stream and the output
sink it supplies (R66, R67, R222). -/

namespace Sys2Proof.Machine

/-- `CORRUPT_IDX` as an index (R40). -/
def corruptIndex (s : State) : Nat :=
  s.txCfg.corruptIdx.toNat

/-- `tx.stat.EOM`: bit 31 = `eomQueued`, bits [30:0] = `eomSeq`, 0 when it is not queued (R41). -/
def eomStatus (t : TxState) : Word :=
  BitVec.ofBool t.eomQueued ++ (if t.eomQueued then BitVec.ofNat 31 t.eomSeq else 0#31)

/-- What a host read returns (R39, R40, R41).  `CORRUPT_VAL` while `CORRUPT_IDX` selects no entry is a free value
(log entry 7). -/
def readRegister (reg : Byte) (s : State) : Word :=
  match reg.toNat with
  | 0x10 => s.txCfg.pktSize
  | 0x11 => s.txCfg.sws
  | 0x12 => s.txCfg.rttTicks
  | 0x13 => s.txCfg.finalTimeouts
  | 0x14 => s.txCfg.corruptLen
  | 0x15 => s.txCfg.corruptIdx
  | 0x16 => (s.txCfg.corruptList[corruptIndex s]?).getD (Config.freeWord s.freeCount)
  | 0x18 => s.tx.phase.code.setWidth 32
  | 0x19 => (faultCode s.tx.fault).setWidth 32
  | 0x1A => BitVec.ofNat 32 s.tx.base
  | 0x1B => BitVec.ofNat 32 s.tx.nextSeqNum
  | 0x1C => BitVec.ofNat 32 s.tx.window.length
  | 0x1D => eomStatus s.tx
  | 0x20 => s.rxCfg.rws
  | 0x28 => s.rx.phase.code.setWidth 32
  | 0x29 => (faultCode s.rx.fault).setWidth 32
  | 0x2A => u32 s.rx.lfr
  | 0x2B => BitVec.ofNat 32 s.rx.buf.length
  | _ => 0#32

/-- The read uses a free value: register 0x16 with an index the block has no entry for (log entry 7). -/
def readsFreeValue (reg : Byte) (s : State) : Bool :=
  reg.toNat == 0x16 && decide (s.txCfg.corruptList.length ≤ corruptIndex s)

/-- A host read: the value on the register interface, no side effect on the block (R41). -/
def hostRead (reg : Byte) (s : State) : State :=
  let t := setResult (.register (readRegister reg s)) (clearReply s)
  if readsFreeValue reg s then { t with freeCount := t.freeCount + 1 } else t

/-- A TX configuration register written (R40); any other number is no TX configuration register. -/
def writeTxCfg (reg : Byte) (v : Word) (c : TxCfg) : TxCfg :=
  match reg.toNat with
  | 0x10 => { c with pktSize := v }
  | 0x11 => { c with sws := v }
  | 0x12 => { c with rttTicks := v }
  | 0x13 => { c with finalTimeouts := v }
  | 0x14 => { c with corruptLen := v }
  | 0x15 => { c with corruptIdx := v }
  | 0x16 => { c with corruptList := c.corruptList.set c.corruptIdx.toNat v }
  | _ => c

/-- The RX configuration register written (R40). -/
def writeRxCfg (reg : Byte) (v : Word) (c : RxCfg) : RxCfg :=
  if reg.toNat = 0x20 then { c with rws := v } else c

/-- A host write: it takes effect only on a configuration register of an engine in its IDLE phase (R39, R40, R41,
R79, R232). -/
def hostWrite (reg : Byte) (v : Word) (s : State) : State :=
  clearReply { s with
    txCfg := if s.tx.phase = .idle then writeTxCfg reg v s.txCfg else s.txCfg
    rxCfg := if s.rx.phase = .idle then writeRxCfg reg v s.rxCfg else s.rxCfg }

/-- The host supplies the source stream, before TX_START; it is fixed for the session (R66, R222). -/
def hostSource (bytes : Bytes) (s : State) : Answer :=
  if s.tx.phase = .idle then .next (clearReply { s with src := bytes }) else .refused .sourceInUse

/-- The host opens an empty output sink, before RX_START (R67, R222). -/
def hostSink (s : State) : Answer :=
  if s.rx.phase = .idle then .next (clearReply { s with out := [] }) else .refused .sinkInUse

end Sys2Proof.Machine
end

