-- ==== Sys2Proof/WellFormed.lean ====
section
/-! DEFINITION. Which operations are well-formed: the operand lengths the rules admit (R65, R73, R121 to R126). -/

namespace Sys2Proof

/-- A datagram a port of build `b` can present (R73). -/
def datagramFits (b : Config.Build) (d : Datagram) : Bool :=
  decide (d.length ≤ b.maxPayload + 8)

/-- A payload of build `b` (R9 `MAX_PAYLOAD`). -/
def payloadFits (b : Config.Build) (p : Bytes) : Bool :=
  decide (p.length ≤ b.maxPayload)

/-- The payload and checksum fields that make a data packet the end-marker (R94). -/
def isEomFields (checksum : Word) (payload : Bytes) : Bool :=
  decide (checksum = 0xFF000000#32 ∧ payload = [0xFF#8])

/-- Well-formed in build `b`.  A `pktData` is not an end-marker: that datagram is `pktEom` (R94). -/
def Instr.wellFormed (b : Config.Build) : Instr → Bool
  | .crc32 payload => payloadFits b payload
  | .encPkt _ _ payload => payloadFits b payload
  | .decPkt d => datagramFits b d
  | .encAck _ => true
  | .decAck d => datagramFits b d
  | .txReset => true
  | .txStart => true
  | .txAck d => datagramFits b d
  | .txTimeout => true
  | .txTick => true
  | .txIofault => true
  | .rxReset => true
  | .rxStart => true
  | .rxPkt d => datagramFits b d
  | .rxIofault => true
  | .pktData _ checksum payload => payloadFits b payload && !isEomFields checksum payload
  | .pktEom _ => true
  | .ack _ rest => decide (rest.length ≤ b.maxPayload + 4)

end Sys2Proof
end

