-- ==== Sys2Proof/Machine/Environment.lean ====
section
/-! DEFINITION. What one input of the environment does: events (R98 to R100), deliveries and the other channel moves
(R75), host accesses (R39, R222). -/

namespace Sys2Proof.Machine

/-- A well-formed operation runs; a longer operand cannot be presented (R73). -/
def runInstr (i : Instr) (s : State) : Answer :=
  if i.wellFormed s.build then exec i s else .refused .operandTooLong

/-- An event: decoded, then run.  A reserved selector has no transition (R100). -/
def runEvent (op : Byte) (len : Nat) (data : Bytes) (s : State) : Answer :=
  match decode (.event op len data) with
  | .ok i => runInstr i s
  | .error .reservedSelector => .fault .reservedSelector
  | .error _ => .refused .malformedEvent

/-- The operation of a delivery at a port.  A datagram that is no packet is an RX_PKT all the same, one that is no
ACK a TX_ACK (R97). -/
def arrivalInstr (p : Port) (d : Datagram) : Instr :=
  match decode (.datagram p d) with
  | .ok i => i
  | .error _ => match p with
    | .pktIn => .rxPkt d
    | .ackIn => .txAck d

/-- A channel move works on a datagram in flight (R75). -/
def inFlight (p : Port) (d : Datagram) (f : State → Answer) (s : State) : Answer :=
  if d ∈ s.channel p then f s else .fault .noSuchDatagram

/-- Deliver: the operation runs, if it is enabled, and takes the datagram from the channel (R75, R203). -/
def runDeliver (p : Port) (d : Datagram) (s : State) : Answer :=
  inFlight p d (runInstr (arrivalInstr p d)) s

/-- Drop: one copy is lost (R75). -/
def runDrop (p : Port) (d : Datagram) (s : State) : Answer :=
  inFlight p d (fun s => .next (takeDatagram p d (clearReply s))) s

/-- Duplicate: one copy more (R75). -/
def runDuplicate (p : Port) (d : Datagram) (s : State) : Answer :=
  inFlight p d (fun s => .next (State.setChannel p (Channel.add d (s.channel p)) (clearReply s))) s

/-- Corrupt: one copy becomes any byte string a port can present (R75). -/
def runCorrupt (p : Port) (d d' : Datagram) (s : State) : Answer :=
  inFlight p d (fun s =>
    if datagramFits s.build d' then
      .next (State.setChannel p (Channel.add d' (Channel.remove d (s.channel p))) (clearReply s))
    else .refused .operandTooLong) s

/-- What one input does (R75, R98, R202, R210). -/
def runInput (i : Input) (s : State) : Answer :=
  match i with
  | .event op len data => runEvent op len data s
  | .deliver p d => runDeliver p d s
  | .drop p d => runDrop p d s
  | .duplicate p d => runDuplicate p d s
  | .corrupt p d d' => runCorrupt p d d' s
  | .hostWrite reg v => .next (hostWrite reg v s)
  | .hostRead reg => .next (hostRead reg s)
  | .hostSource bytes => hostSource bytes s
  | .hostSink => hostSink s

/-- The next input, and the state it runs in. -/
def nextInput (s : State) : Option (Input × State) :=
  match s.inputs with
  | [] => none
  | i :: rest => some (i, { s with inputs := rest })

/-- An input placed before all others. -/
def pushInput (i : Input) (s : State) : State :=
  { s with inputs := i :: s.inputs }

/-- An opcode-table word placed where `step` finds its next operation: an event, or a datagram in flight and its
delivery (log entry 5). -/
def placeWord (e : Encoded) (s : State) : State :=
  match e with
  | .event op len data => pushInput (.event op len data) s
  | .datagram p d => pushInput (.deliver p d) (State.setChannel p (Channel.add d (s.channel p)) s)

end Sys2Proof.Machine
end

