-- ==== Sys2Proof/Machine/Step.lean ====
section
/-! DEFINITION. One step of the machine: the environment's next input, or, when there is none, a wait (R149, R212). -/

namespace Sys2Proof.Machine

/-- One step.  With no input the engines wait and nothing changes (R212; log entry 4). -/
def step (s : State) : Host.Outcome State Fault Refusal :=
  match nextInput s with
  | none => .next s
  | some (i, s') => runInput i s'

/-- `s` with an opcode-table word as the very next thing to run. -/
def State.withFetchWord (s : State) (nbits w : Nat) : State :=
  match tableWord nbits w with
  | none => s
  | some e => placeWord e s

end Sys2Proof.Machine
end

