-- ==== Sys2Proof/Safety.lean ====
section
/-! DEFINITION. The terms the claims are stated in: the stream as the sender cuts it (R66, R143), the invariants of
TX and RX (R36, R37) and of the machine, premise ACK-SANE (R36), honest sessions (R75, R78, R226), and the frames. -/

namespace Sys2Proof.Machine

/-! ## The source stream as packets -/

/-- The `k`-th chunk of `ps` bytes of a stream (R66). -/
def chunkOf (src : Bytes) (ps k : Nat) : Bytes :=
  (src.drop (k * ps)).take ps

/-- How many chunks of at most `ps` bytes a stream of `len` bytes has (R66). -/
def numChunks (len ps : Nat) : Nat :=
  (len + ps - 1) / ps

/-- The packet numbered `k` of a session: a chunk, or the end-marker when the chunks are used up (R143). -/
def streamPacket (src : Bytes) (ps k : Nat) : Packet :=
  mkPkt k (if k < numChunks src.length ps then chunkOf src ps k else eomPayload)

/-- The ACKs of `n` frames delivered after `lfr`: `LFR0 + 1, …, LFR0 + n` (R176). -/
def acksAfter (lfr : Int) (n : Nat) : List Datagram :=
  (List.range n).map fun i : Nat => encAck (lfr + 1 + (i : Int))

/-- What the drain of these payloads does at the ports: each payload to the sink, then its ACK (R176); that an
empty payload stands in the list is the model's choice (log entry 25). -/
def drainEffects (lfr : Int) : List Bytes → List Effect
  | [] => []
  | p :: ps => .sink p :: .ackOut (encAck (lfr + 1)) :: drainEffects (lfr + 1) ps

/-! ## Invariants -/

/-- The parameters of a running session are legal (R142). -/
structure SessionLegal (s : State) : Prop where
  pktSize_pos : 1 ≤ s.txPar.pktSize
  pktSize_le : s.txPar.pktSize ≤ s.build.maxPayload
  sws_pos : 1 ≤ s.txPar.sws
  sws_le : s.txPar.sws ≤ s.build.maxSws
  rtt_pos : 1 ≤ s.txPar.rttTicks
  timeout : s.txPar.timeoutTicks = 15 * s.txPar.rttTicks
  corrupt : ∀ k ∈ s.txPar.corruptSet, 0 ≤ k ∧ k ≤ seqMax

/-- What holds of TX between operations, whatever ACKs arrive (R22 to R29, R36). -/
structure TxInv (s : State) : Prop where
  /-- The window is in canonical form. -/
  window_wf : Store.WF s.tx.window
  /-- R36: every key is below `nextSeqNum`; R26, R143: the record is the packet the stream has at its key. -/
  records : ∀ e ∈ s.tx.window, 0 ≤ e.1 ∧ e.1 < s.tx.nextSeqNum ∧
    e.2 = streamPacket s.src s.txPar.pktSize e.1.toNat
  /-- R36, R150 (a): the capacity bound. -/
  capacity : s.tx.window.length ≤ s.txPar.sws
  base_le : s.tx.base ≤ 2147483648
  next_le : s.tx.nextSeqNum ≤ 2147483648
  /-- Until the end-marker is queued the cursor stands after the chunks sent (R27, R143). -/
  streaming : s.tx.eomQueued = false →
    s.tx.eomSeq = 0 ∧ s.tx.nextSeqNum ≤ numChunks s.src.length s.txPar.pktSize ∧
    s.tx.cursor = min (s.tx.nextSeqNum * s.txPar.pktSize) s.src.length
  /-- Once it is queued, it is the last packet (R25, R143). -/
  ended : s.tx.eomQueued = true →
    s.tx.eomSeq = numChunks s.src.length s.txPar.pktSize ∧
    s.tx.nextSeqNum = numChunks s.src.length s.txPar.pktSize + 1 ∧ s.tx.cursor = s.src.length
  /-- R28, R207: armed exactly in `TX_WAIT`. -/
  armed : s.tx.timerArmed = true ↔ s.tx.phase = .wait
  timer_le : s.tx.timerCnt ≤ s.txPar.timeoutTicks
  disarmed : s.tx.phase ≠ .wait → s.tx.timerCnt = 0
  /-- R22, R199: a fault code exactly in `TX_FAULT`. -/
  faulted : s.tx.fault.isSome = true ↔ s.tx.phase = .fault
  /-- R42: in `TX_IDLE` every TX register holds its reset value. -/
  idle : s.tx.phase = .idle → s.tx = TxState.init
  /-- R29: the counter never passes `FINAL_TIMEOUTS`, and reaches it only on giving up. -/
  final_le : ∀ n, s.txPar.finalTimeouts = some n → s.tx.finalTimeouts ≤ n ∧ (s.tx.phase = .wait → s.tx.finalTimeouts < n)
  final_unlimited : s.txPar.finalTimeouts = none → s.tx.finalTimeouts = 0
  legal : s.tx.phase = .wait → SessionLegal s
  /-- Between operations of a session the last TX_FILL has nothing left to do (R144, R146). -/
  filled : s.tx.phase = .wait → txFillMore s = false
  /-- R40: the latched values come from 32-bit registers. -/
  pktSize_lt : s.txPar.pktSize < 4294967296
  sws_lt : s.txPar.sws < 4294967296
  rtt_lt : s.txPar.rttTicks < 4294967296
  timeout_lt : s.txPar.timeoutTicks < 68719476736
  final_lt : ∀ n, s.txPar.finalTimeouts = some n → 1 ≤ n ∧ n < 4294967296
  corruptList : s.txCfg.corruptList.length = s.build.maxCorrupt

/-- R37, for `RX_LISTEN`. -/
structure Listening (s : State) : Prop where
  laf : s.rx.laf = s.rx.lfr + s.rxPar.rws
  rws_pos : 1 ≤ s.rxPar.rws
  rws_le : s.rxPar.rws ≤ s.build.maxRws
  lfr_ge : -1 ≤ s.rx.lfr
  lfr_le : s.rx.lfr ≤ seqMax
  keys : ∀ e ∈ s.rx.buf, s.rx.lfr + 1 < e.1 ∧ e.1 ≤ s.rx.laf ∧ e.1 ≤ seqMax

/-- What holds of RX between operations (R30 to R33, R37). -/
structure RxInv (s : State) : Prop where
  /-- The reorder buffer is in canonical form. -/
  buf_wf : Store.WF s.rx.buf
  /-- R33: the length of a buffered payload. -/
  payloads : ∀ e ∈ s.rx.buf, e.2.length ≤ s.build.maxPayload
  /-- R33: at most `RWS` entries between operations. -/
  capacity : s.rx.buf.length ≤ s.rxPar.rws
  /-- R40: the latched value comes from a 32-bit register. -/
  rws_lt : s.rxPar.rws < 4294967296
  /-- R42: in `RX_IDLE` every RX register holds its reset value. -/
  idle : s.rx.phase = .idle → s.rx = RxState.init
  listen : s.rx.phase = .listen → Listening s
  /-- R32, R31: `RX_DONE` was entered with `LFR` one more and `LAF` not written. -/
  done : s.rx.phase = .done → s.rx.laf = s.rx.lfr - 1 + s.rxPar.rws ∧ 0 ≤ s.rx.lfr ∧ s.rx.lfr ≤ 2147483648
  /-- R37: `RX_FAULT` entered from `RX_LISTEN` keeps what held there; from `RX_IDLE`, the reset values. -/
  faultState : s.rx.phase = .fault → Listening s ∨ (s.rx.lfr = -1 ∧ s.rx.laf = -1 ∧ s.rx.buf = [])
  /-- R30, R199: a fault code exactly in `RX_FAULT`; SeqExhausted is no fault of RX (R190). -/
  faulted : s.rx.fault.isSome = true ↔ s.rx.phase = .fault
  fault_rx : s.rx.fault ≠ some .seqExhausted

/-- What holds of the channels: canonical form, and nothing longer than a port can carry (R65, R73). -/
structure ChannelInv (s : State) : Prop where
  forward_wf : Channel.WF s.forward
  reverse_wf : Channel.WF s.reverse
  forward_fits : ∀ d ∈ s.forward, d.length ≤ s.build.maxPayload + 8
  reverse_fits : ∀ d ∈ s.reverse, d.length ≤ s.build.maxPayload + 8

/-- The invariant of the machine. -/
structure Inv (s : State) : Prop where
  build : s.build.Legal
  tx : TxInv s
  rx : RxInv s
  channels : ChannelInv s

/-! ## Premise ACK-SANE -/

/-- The ACK datagram an input brings to TX_ACK. -/
def ackOfInput : Input → Option Datagram
  | .event op _ data => if op = 0x12#8 then some data else none
  | .deliver .ackIn d => some d
  | _ => none

/-- ACK-SANE (R36): the ACK the next input brings, if any, carries a value below `nextSeqNum`. -/
def AckSane (s : State) : Prop :=
  ∀ i rest d a, s.inputs = i :: rest → ackOfInput i = some d → decAck d = some a → a < s.tx.nextSeqNum

/-- R36 under ACK-SANE: the window holds exactly the packets numbered `base .. nextSeqNum - 1`. -/
structure WindowExact (s : State) : Prop where
  base_le_next : s.tx.base ≤ s.tx.nextSeqNum
  keys : s.tx.window.map Prod.fst = (List.range' s.tx.base (s.tx.nextSeqNum - s.tx.base)).map Int.ofNat

/-! ## Honest sessions -/

/-- What the sender of a session puts on the forward channel: a packet of its stream, or, when its number is in
`CORRUPT_SET`, that packet corrupted (R132, R143). -/
def Sent (s : State) (d : Datagram) : Prop :=
  ∃ k, k < s.tx.nextSeqNum ∧
    (d = encPkt (streamPacket s.src s.txPar.pktSize k) ∨ d = corrupt (encPkt (streamPacket s.src s.txPar.pktSize k)))

/-- The first `n` chunks of the stream. -/
def delivered (s : State) (n : Nat) : Bytes :=
  ((List.range n).map (chunkOf s.src s.txPar.pktSize)).flatten

/-- The forward channel holds only what this session's sender sent, and the receiver has only that (R75, R78): `OUT`
is the concatenation of the chunks `0 .. LFR`, the buffer holds chunks under their own numbers. -/
structure Honest (s : State) : Prop where
  inFlight : ∀ d ∈ s.forward, Sent s d
  idle : s.rx.phase = .idle → s.out = []
  listening : s.rx.phase = .listen →
    s.out = delivered s (s.rx.lfr + 1).toNat ∧ s.rx.lfr + 1 ≤ s.tx.nextSeqNum ∧
    s.rx.lfr + 1 ≤ numChunks s.src.length s.txPar.pktSize
  buffered : s.rx.phase = .listen → ∀ e ∈ s.rx.buf, 0 ≤ e.1 ∧ e.1 < s.tx.nextSeqNum ∧
    e.1 < numChunks s.src.length s.txPar.pktSize ∧ e.2 = chunkOf s.src s.txPar.pktSize e.1.toNat
  ended : s.rx.phase = .done ∨ s.rx.phase = .fault →
    ∃ n, n ≤ s.tx.nextSeqNum ∧ s.out = delivered s n

/-- The inputs of an honest session: no reset of an engine, no corruption and no forgery on the forward channel.
ACKs may be lost, duplicated, reordered, corrupted and forged. -/
def HonestInput (s : State) : Prop :=
  ∀ i rest, s.inputs = i :: rest →
    match i with
    | .event op _ data => op ≠ 0x10#8 ∧ op ≠ 0x20#8 ∧ (op = 0x22#8 → data ∈ s.forward)
    | .corrupt .pktIn _ _ => False
    | _ => True

/-! ## Frames -/

/-- What no operation of TX touches: RX, every configuration register, the host's streams, the ACKs sent, the
environment (R20). -/
structure TxFrame (s t : State) : Prop where
  build : t.build = s.build
  txCfg : t.txCfg = s.txCfg
  rx : t.rx = s.rx
  rxPar : t.rxPar = s.rxPar
  rxCfg : t.rxCfg = s.rxCfg
  src : t.src = s.src
  out : t.out = s.out
  ackOut : t.ackOut = s.ackOut
  inputs : t.inputs = s.inputs
  freeCount : t.freeCount = s.freeCount

/-- What no operation of RX touches: TX, every configuration register, the source stream, the packets sent, the
environment (R20). -/
structure RxFrame (s t : State) : Prop where
  build : t.build = s.build
  tx : t.tx = s.tx
  txPar : t.txPar = s.txPar
  txCfg : t.txCfg = s.txCfg
  rxCfg : t.rxCfg = s.rxCfg
  src : t.src = s.src
  pktOut : t.pktOut = s.pktOut
  inputs : t.inputs = s.inputs
  freeCount : t.freeCount = s.freeCount

/-! ## What the two loops can do -/

/-- Where the sender stands in its stream (R27, R143): the fields `streaming` and `ended` of `TxInv`. -/
structure StreamPos (s : State) : Prop where
  streaming : s.tx.eomQueued = false →
    s.tx.eomSeq = 0 ∧ s.tx.nextSeqNum ≤ numChunks s.src.length s.txPar.pktSize ∧
    s.tx.cursor = min (s.tx.nextSeqNum * s.txPar.pktSize) s.src.length
  ended : s.tx.eomQueued = true →
    s.tx.eomSeq = numChunks s.src.length s.txPar.pktSize ∧
    s.tx.nextSeqNum = numChunks s.src.length s.txPar.pktSize + 1 ∧ s.tx.cursor = s.src.length

/-- The packets numbered `n .. n + j - 1` of the stream of `s`. -/
def newPackets (s : State) (j : Nat) : List Packet :=
  (List.range j).map fun i => streamPacket s.src s.txPar.pktSize (s.tx.nextSeqNum + i)

/-- What leaves `tx.pkt_out` for them the first time. -/
def newDatagrams (s : State) (j : Nat) : List Datagram :=
  (newPackets s j).map (firstTransmission s.txPar.corruptSet)

/-- `t` is `s` after `j` iterations of TX_FILL. -/
structure FillFrom (s : State) (j : Nat) (t : State) : Prop where
  frame : TxFrame s t
  txPar : t.txPar = s.txPar
  reverse : t.reverse = s.reverse
  phase : t.tx.phase = s.tx.phase
  fault : t.tx.fault = s.tx.fault
  base : t.tx.base = s.tx.base
  timerArmed : t.tx.timerArmed = s.tx.timerArmed
  timerCnt : t.tx.timerCnt = s.tx.timerCnt
  finalTimeouts : t.tx.finalTimeouts = s.tx.finalTimeouts
  nextSeqNum : t.tx.nextSeqNum = s.tx.nextSeqNum + j
  window : t.tx.window = s.tx.window ++ (newPackets s j).map fun p => (p.seq, p)
  pktOut : t.pktOut = s.pktOut ++ newDatagrams s j
  forward : t.forward.Perm (s.forward ++ newDatagrams s j)
  last : t.last = { s.last with effects := s.last.effects ++ (newDatagrams s j).map Effect.pktOut }
  /-- An iteration runs only while the window has room, and only with a number up to `SEQ_MAX`. -/
  room : j = 0 ∨ t.tx.window.length ≤ s.txPar.sws
  numbers : j = 0 ∨ t.tx.nextSeqNum ≤ 2147483648
  pos : StreamPos t

/-- What a finite map binds `k` to, once `key` is bound to `v` in place of an earlier binding (R68, R70), said of the
entries alone. -/
def BoundAfterPut {α : Type} (m : Store α) (key : Int) (v : α) (k : Int) (w : α) : Prop :=
  if k = key then w = v else (k, w) ∈ m

/-- `k` is one of the `n` numbers after `lfr`. -/
def drainedKey (lfr : Int) (n : Nat) (k : Int) : Bool :=
  decide (lfr < k) && decide (k ≤ lfr + n)

/-- `t` is `s` after the drain delivered the payloads `ps`. -/
structure DrainFrom (s : State) (ps : List Bytes) (t : State) : Prop where
  frame : RxFrame s t
  rxPar : t.rxPar = s.rxPar
  forward : t.forward = s.forward
  phase : t.rx.phase = s.rx.phase
  fault : t.rx.fault = s.rx.fault
  laf : t.rx.laf = s.rx.laf
  lfr : t.rx.lfr = s.rx.lfr + ps.length
  payloads : ∀ (i : Nat) (p : Bytes), ps[i]? = some p → Store.get (s.rx.lfr + 1 + i) s.rx.buf = some p
  buf : t.rx.buf = s.rx.buf.filter fun e => !drainedKey s.rx.lfr ps.length e.1
  out : t.out = s.out ++ ps.flatten
  ackOut : t.ackOut = s.ackOut ++ acksAfter s.rx.lfr ps.length
  reverse : t.reverse.Perm (s.reverse ++ acksAfter s.rx.lfr ps.length)
  last : t.last = { s.last with effects := s.last.effects ++ drainEffects s.rx.lfr ps }

/-! ## The operations by unit -/

/-- The operations of the CODEC (R120). -/
def codecOp : Instr → Bool
  | .crc32 _ | .encPkt _ _ _ | .decPkt _ | .encAck _ | .decAck _ => true
  | .txReset | .txStart | .txAck _ | .txTimeout | .txTick | .txIofault | .ack _ _ => false
  | .rxReset | .rxStart | .rxPkt _ | .rxIofault | .pktData _ _ _ | .pktEom _ => false

/-- The operations of TX (R140); an ACK at its port is one. -/
def txOp : Instr → Bool
  | .txReset | .txStart | .txAck _ | .txTimeout | .txTick | .txIofault | .ack _ _ => true
  | .crc32 _ | .encPkt _ _ _ | .decPkt _ | .encAck _ | .decAck _ => false
  | .rxReset | .rxStart | .rxPkt _ | .rxIofault | .pktData _ _ _ | .pktEom _ => false

/-- The operations of RX (R170); a data packet at its port is one. -/
def rxOp : Instr → Bool
  | .rxReset | .rxStart | .rxPkt _ | .rxIofault | .pktData _ _ _ | .pktEom _ => true
  | .crc32 _ | .encPkt _ _ _ | .decPkt _ | .encAck _ | .decAck _ => false
  | .txReset | .txStart | .txAck _ | .txTimeout | .txTick | .txIofault | .ack _ _ => false

/-- The data datagram an operation takes from `rx.pkt_in`. -/
def dataDatagram : Instr → Option Datagram
  | .rxPkt d => some d
  | .pktData seq checksum payload => some (pktDataBytes seq checksum payload)
  | .pktEom seq => some (pktEomBytes seq)
  | _ => none

/-- The ACK datagram an operation takes from `tx.ack_in`. -/
def ackDatagram : Instr → Option Datagram
  | .txAck d => some d
  | .ack seq rest => some (ackBytes seq rest)
  | _ => none

/-- When the spec enables an operation (R120, R140, R170; R209 for the untimed reading). -/
def Enabled (i : Instr) (s : State) : Prop :=
  match i with
  | .crc32 _ | .encPkt _ _ _ | .decPkt _ | .encAck _ | .decAck _ | .txReset | .rxReset => True
  | .txStart => s.tx.phase = .idle
  | .txAck _ | .ack _ _ => s.tx.phase = .wait
  | .txTick => s.tx.phase = .wait ∧ 0 < s.tx.timerCnt ∧ s.build.timed = true
  | .txTimeout => s.tx.phase = .wait ∧ (s.tx.timerCnt = 0 ∨ s.build.timed = false)
  | .txIofault => s.tx.phase = .idle ∨ s.tx.phase = .wait
  | .rxStart => s.rx.phase = .idle
  | .rxPkt _ | .pktData _ _ _ | .pktEom _ => s.rx.phase = .listen
  | .rxIofault => s.rx.phase = .idle ∨ s.rx.phase = .listen

/-- The configuration registers of TX hold values that TX_START accepts (R40, R142).  Whether it tests `CORRUPT_IDX` and
the corrupt-list entries past `CORRUPT_LEN` is the build's: DESIGN CHOICE (log entry 24). -/
def TxConfigOk (b : Config.Build) (c : TxCfg) : Prop :=
  1 ≤ c.pktSize.toNat ∧ c.pktSize.toNat ≤ b.maxPayload ∧ 1 ≤ c.sws.toNat ∧ c.sws.toNat ≤ b.maxSws ∧
  1 ≤ c.rttTicks.toNat ∧ c.corruptLen.toNat ≤ b.maxCorrupt ∧
  (∀ w ∈ c.corruptList.take c.corruptLen.toNat, w.toNat ≤ 2147483647) ∧
  (b.startTest = .everyRegister → c.corruptIdx.toNat < b.maxCorrupt ∧ ∀ w ∈ c.corruptList, w.toNat ≤ 2147483647)

/-- The configuration register of RX holds a legal value (R40, R172). -/
def RxConfigOk (b : Config.Build) (c : RxCfg) : Prop :=
  1 ≤ c.rws.toNat ∧ c.rws.toNat ≤ b.maxRws

/-- An ACK ends the session: after the advance `eomQueued = 1` and `base > eomSeq` (R144, R148). -/
def AckEnds (d : Datagram) (s : State) : Prop :=
  s.tx.eomQueued = true ∧ (s.tx.eomSeq < s.tx.base ∨ ∃ a, decAck d = some a ∧ (s.tx.base : Int) ≤ a ∧ s.tx.eomSeq ≤ a)

/-- A timeout gives up: `eomQueued = 1` and the count reaches `FINAL_TIMEOUTS` (R146, R148). -/
def TimeoutEnds (s : State) : Prop :=
  s.tx.eomQueued = true ∧ ∃ n, s.txPar.finalTimeouts = some n ∧ n ≤ s.tx.finalTimeouts + 1

/-- The table of R148, for an operation that took `s` to `t`. -/
def TxPhaseStep (i : Instr) (s t : State) : Prop :=
  match i with
  | .txReset => t.tx.phase = .idle
  | .txStart => s.tx.phase = .idle ∧ (TxConfigOk s.build s.txCfg → t.tx.phase = .wait) ∧
      (¬ TxConfigOk s.build s.txCfg → t.tx.phase = .fault ∧ t.tx.fault = some .configError)
  | .txAck d => s.tx.phase = .wait ∧ (AckEnds d s → t.tx.phase = .done) ∧
      (¬ AckEnds d s → t.tx.phase = .wait ∨ (t.tx.phase = .fault ∧ t.tx.fault = some .seqExhausted))
  | .ack seq rest => s.tx.phase = .wait ∧ (AckEnds (ackBytes seq rest) s → t.tx.phase = .done) ∧
      (¬ AckEnds (ackBytes seq rest) s →
        t.tx.phase = .wait ∨ (t.tx.phase = .fault ∧ t.tx.fault = some .seqExhausted))
  | .txTick => s.tx.phase = .wait ∧ t.tx.phase = .wait
  | .txTimeout => s.tx.phase = .wait ∧ (TimeoutEnds s → t.tx.phase = .gaveup) ∧
      (¬ TimeoutEnds s → t.tx.phase = .wait)
  | .txIofault => (s.tx.phase = .idle ∨ s.tx.phase = .wait) ∧ t.tx.phase = .fault ∧ t.tx.fault = some .ioFault
  | .crc32 _ | .encPkt _ _ _ | .decPkt _ | .encAck _ | .decAck _ => t.tx.phase = s.tx.phase
  | .rxReset | .rxStart | .rxPkt _ | .rxIofault | .pktData _ _ _ | .pktEom _ => t.tx.phase = s.tx.phase

/-- The rows of R179 for RX_PKT. -/
def RxPktPhaseStep (d : Datagram) (s t : State) : Prop :=
  s.rx.phase = .listen ∧ t.rx.phase = if classify s.rx.lfr s.rx.laf d = .eom then .done else .listen

/-- The table of R179, for an operation that took `s` to `t`. -/
def RxPhaseStep (i : Instr) (s t : State) : Prop :=
  match i with
  | .rxReset => t.rx.phase = .idle
  | .rxStart => s.rx.phase = .idle ∧ (RxConfigOk s.build s.rxCfg → t.rx.phase = .listen) ∧
      (¬ RxConfigOk s.build s.rxCfg → t.rx.phase = .fault ∧ t.rx.fault = some .configError)
  | .rxPkt d => RxPktPhaseStep d s t
  | .pktData seq checksum payload => RxPktPhaseStep (pktDataBytes seq checksum payload) s t
  | .pktEom seq => RxPktPhaseStep (pktEomBytes seq) s t
  | .rxIofault => (s.rx.phase = .idle ∨ s.rx.phase = .listen) ∧ t.rx.phase = .fault ∧ t.rx.fault = some .ioFault
  | .crc32 _ | .encPkt _ _ _ | .decPkt _ | .encAck _ | .decAck _ => t.rx.phase = s.rx.phase
  | .txReset | .txStart | .txAck _ | .txTimeout | .txTick | .txIofault | .ack _ _ => t.rx.phase = s.rx.phase

/-- Two states whose senders are the same: everything an operation of TX may read (R20). -/
structure TxSame (s u : State) : Prop where
  build : u.build = s.build
  tx : u.tx = s.tx
  txPar : u.txPar = s.txPar
  txCfg : u.txCfg = s.txCfg
  src : u.src = s.src

/-- Two states whose receivers are the same: everything an operation of RX may read (R20). -/
structure RxSame (s u : State) : Prop where
  build : u.build = s.build
  rx : u.rx = s.rx
  rxPar : u.rxPar = s.rxPar
  rxCfg : u.rxCfg = s.rxCfg

/-- A state without what the untimed reading omits (R209); the trace line is not compared. -/
def eraseTime (s : State) : State :=
  { s with build := { s.build with timed := false }, tx := { s.tx with timerCnt := 0 }, last := Reply.empty }

/-- `u` is a state of the untimed machine that agrees with `s` on all but the timer count (R209). -/
def Untimed (s u : State) : Prop :=
  u.build.timed = false ∧ eraseTime u = eraseTime s

/-- A run of `n` TX_TICK operations (R208). -/
def ticks : Nat → State → Answer
  | 0, s => .next s
  | n + 1, s =>
    match exec .txTick s with
    | .next t => ticks n t
    | .fault r => .fault r
    | .refused r => .refused r

end Sys2Proof.Machine
end

