-- ==== Sys2Proof/Certificates/Slice0/Obligations.lean ====
section
/-! DEFINITION. The statements about the model, each from the spec's numbered rules. -/

open Sys2Proof Sys2Proof.Machine

/-! ## Encodings -/

/-- R90, R92, R94, R98, R99: no bit of an encoding is dropped. -/
def Obligations.DecodeOfEncodeIsIdentity : Prop :=
  ∀ (b : Config.Build) (i : Instr), i.wellFormed b = true → decode (encode i) = .ok i

/-- R90, R92, R94, R98, R99: each event and each datagram has one meaning. -/
def Obligations.EncodeOfDecodeIsIdentity : Prop :=
  ∀ (e : Encoded) (i : Instr), decode e = .ok i → encode i = e

/-- A few words written out from R90 to R99. -/
def Obligations.WrittenOutWordsDecode : Prop :=
  decode (.event 0x00#8 1 [0x61#8]) = .ok (.crc32 [0x61#8]) ∧
  decode (.event 0x01#8 9 [0xFF#8, 0xFF#8, 0xFF#8, 0xFF#8, 0x12#8, 0x34#8, 0x56#8, 0x78#8, 0x01#8]) =
    .ok (.encPkt 0xFFFFFFFF#32 0x12345678#32 [0x01#8]) ∧
  decode (.event 0x11#8 0 []) = .ok .txStart ∧
  decode (.event 0x12#8 4 [0x00#8, 0x00#8, 0x00#8, 0x02#8]) =
    .ok (.txAck [0x00#8, 0x00#8, 0x00#8, 0x02#8]) ∧
  decode (.event 0x21#8 0 []) = .ok .rxStart ∧
  decode (.datagram .pktIn [0x00#8, 0x00#8, 0x00#8, 0x02#8, 0xD2#8, 0x02#8, 0xEF#8, 0x8D#8, 0x00#8]) =
    .ok (.pktData 0x00000002#32 0xD202EF8D#32 [0x00#8]) ∧
  decode (.datagram .pktIn [0x00#8, 0x00#8, 0x00#8, 0x03#8, 0xFF#8, 0x00#8, 0x00#8, 0x00#8, 0xFF#8]) =
    .ok (.pktEom 0x00000003#32) ∧
  decode (.datagram .ackIn [0x00#8, 0x00#8, 0x00#8, 0x05#8, 0xAA#8]) = .ok (.ack 0x00000005#32 [0xAA#8])

/-- R100: an event whose code is not in the table of R99 has no transition; one whose code is there is never
rejected for its code. -/
def Obligations.ReservedSelectorHasNoTransition : Prop :=
  ∀ (s : State) (op : Byte) (data : Bytes) (rest : List Input),
    s.inputs = .event op data.length data :: rest →
    (step s = .fault .reservedSelector ↔
      op ∉ [0x00#8, 0x01#8, 0x02#8, 0x03#8, 0x04#8, 0x10#8, 0x11#8, 0x12#8, 0x13#8, 0x14#8, 0x15#8, 0x20#8, 0x21#8,
        0x22#8, 0x23#8])

/-! ## CODEC -/

/-- R120: a CODEC operation completes in every state, with a result that depends on its operand alone, and changes
nothing (the trace line `last` is the model's own, log entry 6). -/
def Obligations.CodecOperationsArePure : Prop :=
  ∀ i : Instr, codecOp i = true → ∃ r : Result, ∀ s : State,
    exec i s = .next { s with last := { labels := [], effects := [], result := some r } }

/-- R121: the CRC32 operation answers what the pseudocode computes, byte by byte and bit by bit. -/
def Obligations.Crc32FollowsItsPseudocode : Prop :=
  ∀ (s : State) (payload : Bytes),
    exec (.crc32 payload) s = .next { s with last := { labels := [], effects := [], result := some (.checksum
      ((payload.foldl (fun crc b =>
          Nat.repeat (fun c : Word => if c.getLsbD 0 then (c >>> 1) ^^^ 0xEDB88320#32 else c >>> 1) 8
            (crc ^^^ b.setWidth 32))
        0xFFFFFFFF#32) ^^^ 0xFFFFFFFF#32)) } }

/-- R121's corner cases and example (the CRC is decision D5). -/
def Obligations.Crc32ExampleValues : Prop :=
  crc32 [] = 0x00000000#32 ∧ crc32 [0xFF#8] = 0xFF000000#32 ∧ crc32 [0x00#8] = 0xD202EF8D#32 ∧
  crc32 [0xFF#8, 0xFF#8, 0xFF#8, 0xFF#8] = 0xFFFFFFFF#32 ∧ crc32 [0x41#8, 0x42#8] = 0x30694C07#32 ∧
  crc32 [0x42#8, 0x41#8] = 0x824D4E7E#32 ∧ crc32 [0x61#8] = 0xE8B7BE43#32 ∧
  crc32 [0x31#8, 0x32#8, 0x33#8, 0x34#8, 0x35#8, 0x36#8, 0x37#8, 0x38#8, 0x39#8] = 0xCBF43926#32

/-- R122 (c): the byte-table form. -/
def Obligations.Crc32ByteTableForm : Prop :=
  (∀ (crc : Word) (b : Byte),
    crcByte crc b = (crc >>> 8) ^^^ crcBits 8 (((crc ^^^ b.setWidth 32).extractLsb' 0 8).setWidth 32)) ∧
  crcBits 8 0#32 = 0x00000000#32 ∧ crcBits 8 1#32 = 0x77073096#32 ∧ crcBits 8 2#32 = 0xEE0E612C#32 ∧
  crcBits 8 128#32 = 0xEDB88320#32 ∧ crcBits 8 255#32 = 0x2D02EF8D#32

/-- R123 to R126: what ENC_PKT, DEC_PKT, ENC_ACK and DEC_ACK answer. -/
def Obligations.FramingOperationResults : Prop :=
  ∀ s : State,
    (∀ (seq checksum : Word) (payload : Bytes), exec (.encPkt seq checksum payload) s =
      .next { s with last := {
        labels := [], effects := [], result := some (.datagram (be32 seq ++ be32 checksum ++ payload)) } }) ∧
    (∀ (b0 b1 b2 b3 c0 c1 c2 c3 : Byte) (payload : Bytes),
      exec (.decPkt (b0 :: b1 :: b2 :: b3 :: c0 :: c1 :: c2 :: c3 :: payload)) s =
      .next { s with last := { labels := [], effects := [], result := some (.packet
        { seq := (b0 ++ b1 ++ b2 ++ b3 : BitVec 32).toInt, checksum := c0 ++ c1 ++ c2 ++ c3, payload := payload }) } }) ∧
    (∀ d : Datagram, d.length < 8 → exec (.decPkt d) s =
      .next { s with last := { labels := [], effects := [], result := some .malformedPacket } }) ∧
    (∀ seq : Word, exec (.encAck seq) s =
      .next { s with last := { labels := [], effects := [], result := some (.datagram (be32 seq)) } }) ∧
    (∀ (b0 b1 b2 b3 : Byte) (rest : Bytes), exec (.decAck (b0 :: b1 :: b2 :: b3 :: rest)) s =
      .next { s with last := {
        labels := [], effects := [], result := some (.ackValue (b0 ++ b1 ++ b2 ++ b3 : BitVec 32).toInt) } }) ∧
    (∀ d : Datagram, d.length < 4 → exec (.decAck d) s =
      .next { s with last := { labels := [], effects := [], result := some .malformedAck } })

/-- R127: the four round trips. -/
def Obligations.FramingRoundTrips : Prop :=
  (∀ (seq : Int) (checksum : Word) (payload : Bytes), -2147483648 ≤ seq → seq ≤ 2147483647 →
    decPkt (encPkt { seq := seq, checksum := checksum, payload := payload }) =
      some { seq := seq, checksum := checksum, payload := payload }) ∧
  (∀ d : Datagram, 8 ≤ d.length → ∃ p : Packet, decPkt d = some p ∧ encPkt p = d) ∧
  (∀ v : Int, -2147483648 ≤ v → v ≤ 2147483647 → decAck (encAck v) = some v) ∧
  decAck (encAck 2147483648) = some (-2147483648)

/-- R129, R130, R131: VERIFY, MK_PKT and IS_EOM. -/
def Obligations.HelperPredicates : Prop :=
  (∀ (checksum : Word) (payload : Bytes), verify checksum payload = true ↔ crc32 payload = checksum) ∧
  (∀ (n : Int) (payload : Bytes), mkPkt n payload = { seq := n, checksum := crc32 payload, payload := payload }) ∧
  (∀ payload : Bytes, isEom payload = true ↔ payload.length = 1 ∧ payload[0]? = some 0xFF#8)

/-- R132: CORRUPT inverts bit 0 of the byte at offset 8 and nothing else, and a corrupted packet of a sender always
fails the checksum test: the receiver reports BADCRC, whatever its window. -/
def Obligations.CorruptedPacketIsAlwaysBadCrc : Prop :=
  (∀ (d : Datagram) (x : Byte), d[8]? = some x → corrupt d = d.take 8 ++ (x ^^^ 0x01#8) :: d.drop 9) ∧
  (∀ (lfr laf n : Int) (payload : Bytes), payload ≠ [] →
    classify lfr laf (corrupt (encPkt (mkPkt n payload))) = .badcrc)

/-- R96, R204: the five classes, in the order of the table. -/
def Obligations.ClassesOfADataDatagram : Prop :=
  ∀ lfr laf : Int,
    (∀ d : Datagram, d.length < 8 → classify lfr laf d = .malformed) ∧
    (∀ (b0 b1 b2 b3 c0 c1 c2 c3 : Byte) (payload : Bytes), classify lfr laf
        (b0 :: b1 :: b2 :: b3 :: c0 :: c1 :: c2 :: c3 :: payload) =
      if crc32 payload ≠ c0 ++ c1 ++ c2 ++ c3 then .badcrc
      else if payload = [0xFF#8] then .eom
      else if lfr < (b0 ++ b1 ++ b2 ++ b3 : BitVec 32).toInt ∧ (b0 ++ b1 ++ b2 ++ b3 : BitVec 32).toInt ≤ laf then
        .accept (b0 ++ b1 ++ b2 ++ b3 : BitVec 32).toInt payload
      else .oow) ∧
    (∀ d : Datagram, classify lfr laf d = .eom ↔ d.length = 9 ∧ d.drop 4 = [0xFF#8, 0x00#8, 0x00#8, 0x00#8, 0xFF#8])

/-! ## Enabling, reset, faults -/

/-- R203, with the enabling conditions of R120, R140, R170 and R209: an operation completes where it is enabled, and
has no transition where it is not. -/
def Obligations.OperationsRunExactlyWhenEnabled : Prop :=
  ∀ (i : Instr) (s : State),
    (Enabled i s → ∃ t, exec i s = .next t) ∧ (¬ Enabled i s → exec i s = .fault .notEnabled)

/-- R141: TX_RESET, in every state. -/
def Obligations.TxResetGivesTheInitialSender : Prop :=
  ∀ s : State, exec .txReset s = .next { s with
    tx := {
      phase := .idle, fault := none, base := 0, nextSeqNum := 0, eomQueued := false, eomSeq := 0, window := []
      cursor := 0, timerArmed := false, timerCnt := 0, finalTimeouts := 0 }
    last := { labels := [.reset], effects := [], result := none } }

/-- R171: RX_RESET, in every state. -/
def Obligations.RxResetGivesTheInitialReceiver : Prop :=
  ∀ s : State, exec .rxReset s = .next { s with
    rx := { phase := .idle, fault := none, lfr := -1, laf := -1, buf := [] }
    last := { labels := [.reset], effects := [], result := none } }

/-- R42, R220: the registers after power-on, whatever the build and the configuration registers hold; power-on is the
two resets together. -/
def Obligations.PowerOnValues : Prop :=
  ∀ (b : Config.Build) (ct : TxCfg) (cr : RxCfg),
    (State.powerOn b ct cr).tx = {
      phase := .idle, fault := none, base := 0, nextSeqNum := 0, eomQueued := false, eomSeq := 0, window := []
      cursor := 0, timerArmed := false, timerCnt := 0, finalTimeouts := 0 } ∧
    (State.powerOn b ct cr).rx = { phase := .idle, fault := none, lfr := -1, laf := -1, buf := [] } ∧
    (∀ s : State, ∃ t u, exec .txReset s = .next t ∧ exec .rxReset t = .next u ∧
      u.tx = (State.powerOn b ct cr).tx ∧ u.rx = (State.powerOn b ct cr).rx ∧ u.txCfg = s.txCfg ∧ u.rxCfg = s.rxCfg ∧
      u.src = s.src ∧ u.out = s.out ∧ u.forward = s.forward ∧ u.reverse = s.reverse)

/-- R147: TX_IOFAULT. -/
def Obligations.TxIofaultStopsTheSender : Prop :=
  ∀ s : State, s.tx.phase = .idle ∨ s.tx.phase = .wait → exec .txIofault s = .next { s with
    tx := { s.tx with fault := some .ioFault, phase := .fault, timerArmed := false, timerCnt := 0 }
    last := { labels := [.fault .ioFault], effects := [], result := none } }

/-- R178: RX_IOFAULT. -/
def Obligations.RxIofaultStopsTheReceiver : Prop :=
  ∀ s : State, s.rx.phase = .idle ∨ s.rx.phase = .listen → exec .rxIofault s = .next { s with
    rx := { s.rx with fault := some .ioFault, phase := .fault }
    last := { labels := [.fault .ioFault], effects := [], result := none } }

/-- R201: nothing but its reset changes an engine in a terminal phase. -/
def Obligations.OnlyResetLeavesATerminalPhase : Prop :=
  ∀ (i : Instr) (s t : State), exec i s = .next t →
    (s.tx.phase = .done ∨ s.tx.phase = .gaveup ∨ s.tx.phase = .fault → i ≠ .txReset →
      t.tx = s.tx ∧ t.pktOut = s.pktOut) ∧
    (s.rx.phase = .done ∨ s.rx.phase = .fault → i ≠ .rxReset → t.rx = s.rx ∧ t.out = s.out ∧ t.ackOut = s.ackOut)

/-- R22, R30, R199: the fault code is set exactly on entry to the FAULT phase, and cleared by the reset alone. -/
def Obligations.FaultCodesAreSticky : Prop :=
  ∀ (i : Instr) (s t : State), exec i s = .next t →
    (t.tx.fault ≠ s.tx.fault → i = .txReset ∨ (s.tx.phase ≠ .fault ∧ t.tx.phase = .fault ∧ t.tx.timerArmed = false ∧
      t.tx.timerCnt = 0)) ∧
    (t.rx.fault ≠ s.rx.fault → i = .rxReset ∨ (s.rx.phase ≠ .fault ∧ t.rx.phase = .fault))

/-! ## TX -/

/-- R142: a configuration that fails a test of TX_START raises ConfigError and nothing has been emitted.  That the values
just latched stand is read from the order of the pseudocode (log entry 13); which registers are tested beside them, by the
build, is the model's choice (log entry 24). -/
def Obligations.TxStartRejectsAnIllegalConfiguration : Prop :=
  ∀ s : State, s.tx.phase = .idle → ¬ TxConfigOk s.build s.txCfg → exec .txStart s = .next { s with
    tx := { s.tx with fault := some .configError, phase := .fault, timerArmed := false, timerCnt := 0 }
    txPar := { s.txPar with
      pktSize := s.txCfg.pktSize.toNat
      sws := s.txCfg.sws.toNat
      rttTicks := s.txCfg.rttTicks.toNat
      finalTimeouts := if s.txCfg.finalTimeouts = 0#32 then none else some s.txCfg.finalTimeouts.toNat
      corruptSet := (s.txCfg.corruptList.take s.txCfg.corruptLen.toNat).map fun w => (w.toNat : Int) }
    last := { labels := [.fault .configError], effects := [], result := none } }

/-- R142, R143: a legal start sends the first `min(SWS, chunks + 1)` packets of the stream, in ascending order, the
ones in `CORRUPT_SET` corrupted, and waits.  `SWS <= 2^31` is the rule's own condition that SeqExhausted cannot
occur; what the build makes a legal `CORRUPT_IDX` and unused corrupt-list entry is the model's choice (log entry 24). -/
def Obligations.TxStartSendsTheFirstWindow : Prop :=
  ∀ (s : State) (ps k n : Nat), Inv s → s.tx.phase = .idle → TxConfigOk s.build s.txCfg →
    s.txCfg.sws.toNat ≤ 2147483648 →
    ps = s.txCfg.pktSize.toNat → k = numChunks s.src.length ps → n = min s.txCfg.sws.toNat (k + 1) →
    ∃ t, exec .txStart s = .next t ∧ TxFrame s t ∧ t.reverse = s.reverse ∧
      t.txPar = {
        pktSize := ps, sws := s.txCfg.sws.toNat, rttTicks := s.txCfg.rttTicks.toNat
        timeoutTicks := 15 * s.txCfg.rttTicks.toNat
        finalTimeouts := if s.txCfg.finalTimeouts = 0#32 then none else some s.txCfg.finalTimeouts.toNat
        corruptSet := (s.txCfg.corruptList.take s.txCfg.corruptLen.toNat).map fun w => (w.toNat : Int) } ∧
      t.tx = {
        phase := .wait, fault := none, base := 0, nextSeqNum := n
        eomQueued := decide (n = k + 1), eomSeq := if n = k + 1 then k else 0
        window := (List.range n).map fun j : Nat => ((j : Int), streamPacket s.src ps j)
        cursor := min (n * ps) s.src.length
        timerArmed := true, timerCnt := 15 * s.txCfg.rttTicks.toNat, finalTimeouts := 0 } ∧
      t.pktOut = s.pktOut ++ (List.range n).map (fun j => firstTransmission t.txPar.corruptSet (streamPacket s.src ps j)) ∧
      t.forward.Perm (s.forward ++
        (List.range n).map (fun j => firstTransmission t.txPar.corruptSet (streamPacket s.src ps j))) ∧
      t.last = { labels := [.started], result := none, effects :=
        (List.range n).map (fun j => .pktOut (firstTransmission t.txPar.corruptSet (streamPacket s.src ps j))) }

/-- R66: `SrcRead(n)`. -/
def Obligations.SrcReadTakesTheMostItCan : Prop :=
  ∀ (s : State) (n m : Nat), 1 ≤ n → m = min n (s.src.length - s.tx.cursor) →
    (m = 0 → srcRead n s = (none, s)) ∧
    (m ≠ 0 → ∃ chunk, srcRead n s = (some chunk, { s with tx := { s.tx with cursor := s.tx.cursor + m } }) ∧
      chunk.length = m ∧ ∀ j, j < m → chunk[j]? = s.src[s.tx.cursor + j]?)

/-- R144, R198: an ACK that is malformed or stale, in a session it does not end, only reloads the timer. -/
def Obligations.IgnoredAckReloadsTheTimer : Prop :=
  ∀ (i : Instr) (s : State) (d : Datagram), Inv s → s.tx.phase = .wait → ackDatagram i = some d → ¬ AckEnds d s →
    (decAck d = none → exec i s = .next { s with
      tx := { s.tx with timerCnt := s.txPar.timeoutTicks }, reverse := s.reverse.erase d
      last := { labels := [.malformedAck], effects := [], result := none } }) ∧
    (∀ a : Int, decAck d = some a → a < s.tx.base → exec i s = .next { s with
      tx := { s.tx with timerCnt := s.txPar.timeoutTicks }, reverse := s.reverse.erase d
      last := { labels := [.stale], effects := [], result := none } })

/-- R144: the ACK that passes the end-marker ends the session; so does any ACK once `base > eomSeq`. -/
def Obligations.AckOfTheEndMarkerEndsTheSession : Prop :=
  ∀ (i : Instr) (s : State) (d : Datagram), s.tx.phase = .wait → ackDatagram i = some d → AckEnds d s →
    (∀ a : Int, decAck d = some a → s.tx.base ≤ a → exec i s = .next { s with
      tx := { s.tx with base := (a + 1).toNat, window := s.tx.window.filter (fun e => decide (a + 1 ≤ e.1)),
                        phase := .done, timerArmed := false, timerCnt := 0 }
      reverse := s.reverse.erase d
      last := { labels := [.advance, .done], effects := [], result := none } }) ∧
    (∀ l : Label, (decAck d = none ∧ l = .malformedAck) ∨ (∃ a : Int, decAck d = some a ∧ a < s.tx.base ∧ l = .stale) →
      exec i s = .next { s with
        tx := { s.tx with phase := .done, timerArmed := false, timerCnt := 0 }, reverse := s.reverse.erase d
        last := { labels := [l, .done], effects := [], result := none } })

/-- R144, R143: an ACK with `base <= a` that does not end the session sets `base` to `a + 1`, keeps exactly the records
from there on, and TX_FILL sends the next `j` packets of the stream: until the window is full or the end-marker is
queued, and then the timer is reloaded; or, short of that, until the number `2^31` would be needed, and then
SeqExhausted is raised with all that standing. -/
def Obligations.AckAdvancesAndRefills : Prop :=
  ∀ (i : Instr) (s u : State) (d : Datagram) (a : Int), Inv s → s.tx.phase = .wait → ackDatagram i = some d →
    decAck d = some a → s.tx.base ≤ a → ¬ AckEnds d s →
    u = { s with
      tx := { s.tx with base := (a + 1).toNat, window := s.tx.window.filter (fun e => decide (a + 1 ≤ e.1)) }
      reverse := s.reverse.erase d, last := { labels := [], effects := [], result := none } } →
    ∃ (j : Nat) (v : State), FillFrom u j v ∧
      (v.tx.window.length = s.txPar.sws ∨ v.tx.eomQueued = true → exec i s = .next { v with
        tx := { v.tx with timerCnt := s.txPar.timeoutTicks }, last := { v.last with labels := [.advance] } }) ∧
      (v.tx.window.length < s.txPar.sws ∧ v.tx.eomQueued = false → v.tx.nextSeqNum = 2147483648 ∧
        exec i s = .next { v with
          tx := { v.tx with fault := some .seqExhausted, phase := .fault, timerArmed := false, timerCnt := 0 }
          last := { v.last with labels := [.fault .seqExhausted] } })

/-- R143, R197: when no number is left, the advance stands, nothing is emitted and the engine stops with
SeqExhausted. -/
def Obligations.SeqExhaustedStopsTheSender : Prop :=
  ∀ (i : Instr) (s : State) (d : Datagram) (a : Int), Inv s → s.tx.phase = .wait → ackDatagram i = some d →
    decAck d = some a → s.tx.base ≤ a → s.tx.eomQueued = false → s.tx.nextSeqNum = 2147483648 →
    (s.tx.window.filter (fun e => decide (a + 1 ≤ e.1))).length < s.txPar.sws →
    exec i s = .next { s with
      tx := { s.tx with base := (a + 1).toNat, window := s.tx.window.filter (fun e => decide (a + 1 ≤ e.1)),
                        fault := some .seqExhausted, phase := .fault, timerArmed := false, timerCnt := 0 }
      reverse := s.reverse.erase d
      last := { labels := [.fault .seqExhausted], effects := [], result := none } }

/-- R150 (b): after an ACK for `a`, with `base <= a` and (premise ACK-SANE, without which packets numbered below `base`
are created, R226) `a < nextSeqNum`, no key up to `a` remains in the window. -/
def Obligations.AckIsCumulative : Prop :=
  ∀ (i : Instr) (s t : State) (d : Datagram) (a : Int), Inv s → ackDatagram i = some d → decAck d = some a →
    s.tx.base ≤ a → a < s.tx.nextSeqNum → exec i s = .next t →
    t.tx.base = a + 1 ∧ ∀ e ∈ t.tx.window, a < e.1

/-- R146, R150 (d), R194: a timeout sends every record of the window again, in ascending order and uncorrupted; the
window, `base` and `nextSeqNum` do not change; with the end-marker queued it is counted, and the `FINAL_TIMEOUTS`-th
such timeout gives up. -/
def Obligations.TimeoutRetransmitsTheWindow : Prop :=
  ∀ s : State, Inv s → Enabled .txTimeout s →
    ∃ t, exec .txTimeout s = .next t ∧ TxFrame s t ∧ t.txPar = s.txPar ∧ t.reverse = s.reverse ∧
      t.pktOut = s.pktOut ++ s.tx.window.map (fun e => encPkt e.2) ∧
      t.forward.Perm (s.forward ++ s.tx.window.map (fun e => encPkt e.2)) ∧
      t.last.effects = s.tx.window.map (fun e => .pktOut (encPkt e.2)) ∧
      (TimeoutEnds s →
        t.tx = { s.tx with finalTimeouts := s.tx.finalTimeouts + 1, phase := .gaveup, timerArmed := false, timerCnt := 0 } ∧
        t.last.labels = [.retransmit s.tx.window.length, .gaveup]) ∧
      (¬ TimeoutEnds s →
        t.tx = { s.tx with
          finalTimeouts := if s.tx.eomQueued = true ∧ s.txPar.finalTimeouts ≠ none then s.tx.finalTimeouts + 1
            else s.tx.finalTimeouts
          timerCnt := s.txPar.timeoutTicks } ∧
        t.last.labels = [.retransmit s.tx.window.length])

/-- R145: one tick; TX_TICK exists in the timed reading only (R209). -/
def Obligations.TickCountsDown : Prop :=
  ∀ s : State, s.tx.phase = .wait → 0 < s.tx.timerCnt → s.build.timed = true → exec .txTick s = .next { s with
    tx := { s.tx with timerCnt := s.tx.timerCnt - 1 }
    last := { labels := [.tick], effects := [], result := none } }

/-- R208: from a load of the timer, exactly as many ticks as it was loaded with pass before TX_TIMEOUT is enabled, and
then no more ticks are. -/
def Obligations.TimeoutComesAfterExactlyTheLoadedTicks : Prop :=
  ∀ s : State, s.tx.phase = .wait → s.build.timed = true →
    (∀ m, m < s.tx.timerCnt → ∃ t, ticks m s = .next t ∧ exec .txTimeout t = .fault .notEnabled) ∧
    (∃ t v, ticks s.tx.timerCnt s = .next t ∧ t.tx = { s.tx with timerCnt := 0 } ∧ exec .txTick t = .fault .notEnabled ∧
      exec .txTimeout t = .next v)

/-- R209: what the timed machine does, the untimed one does too, with the ticks erased. -/
def Obligations.UntimedReadingRefinesTheTimedOne : Prop :=
  ∀ (i : Instr) (s t u : State), Untimed s u → exec i s = .next t →
    (i ≠ .txTick → ∃ v, exec i u = .next v ∧ Untimed t v) ∧ (i = .txTick → Untimed t u)

/-- R148: every transition of `tx.phase`, and no other exists.  `MAX_SWS <= 2^31` is R142's condition that TX_START
cannot exhaust the sequence numbers; what the build makes a legal `CORRUPT_IDX` and unused corrupt-list entry is the
model's choice (log entry 24). -/
def Obligations.TxPhaseTransitions : Prop :=
  ∀ (i : Instr) (s t : State), Inv s → s.build.maxSws ≤ 2147483648 → exec i s = .next t → TxPhaseStep i s t

/-- R150 (e), R23, R24: `base`, `nextSeqNum` and the cursor never decrease, and what was sent stays sent. -/
def Obligations.SenderCountersNeverDecrease : Prop :=
  ∀ (i : Instr) (s t : State), exec i s = .next t → i ≠ .txReset →
    s.tx.base ≤ t.tx.base ∧ s.tx.nextSeqNum ≤ t.tx.nextSeqNum ∧ s.tx.cursor ≤ t.tx.cursor ∧ s.pktOut <+: t.pktOut ∧
    (s.tx.eomQueued = true → t.tx.eomQueued = true ∧ t.tx.eomSeq = s.tx.eomSeq)

/-! ## RX -/

/-- R172: RX_START, with a legal and with an illegal `RWS`.  That the latched value stands in the second case is read
from the order of the pseudocode (log entry 13). -/
def Obligations.RxStartOpensTheWindow : Prop :=
  ∀ s : State, s.rx.phase = .idle →
    (RxConfigOk s.build s.rxCfg → exec .rxStart s = .next { s with
      rx := { s.rx with laf := s.rx.lfr + s.rxCfg.rws.toNat, phase := .listen }
      rxPar := { rws := s.rxCfg.rws.toNat }
      last := { labels := [.started], effects := [], result := none } }) ∧
    (¬ RxConfigOk s.build s.rxCfg → exec .rxStart s = .next { s with
      rx := { s.rx with fault := some .configError, phase := .fault }
      rxPar := { rws := s.rxCfg.rws.toNat }
      last := { labels := [.fault .configError], effects := [], result := none } })

/-- R174, R177, R180 (a): a malformed, corrupted, duplicate or out-of-window datagram is answered with one ACK of the
current `LFR` and changes nothing. -/
def Obligations.RejectedDatagramIsReAcked : Prop :=
  ∀ (i : Instr) (s : State) (d : Datagram) (l : Label), s.rx.phase = .listen → dataDatagram i = some d →
    (classify s.rx.lfr s.rx.laf d = .malformed ∧ l = .malformed) ∨
      (classify s.rx.lfr s.rx.laf d = .badcrc ∧ l = .badcrc) ∨ (classify s.rx.lfr s.rx.laf d = .oow ∧ l = .oow) →
    exec i s = .next { s with
      ackOut := s.ackOut ++ [encAck s.rx.lfr], reverse := Channel.add (encAck s.rx.lfr) s.reverse
      forward := s.forward.erase d
      last := { labels := [l], effects := [.ackOut (encAck s.rx.lfr)], result := none } }

/-- R175: a valid end-marker adds 1 to `LFR`, is acknowledged with that value and ends the session, whatever its number;
`LAF`, the buffer and the sink are not written. -/
def Obligations.EndMarkerEndsTheReceiver : Prop :=
  ∀ (i : Instr) (s : State) (d : Datagram), s.rx.phase = .listen → dataDatagram i = some d →
    (classify s.rx.lfr s.rx.laf d = .eom ∨ ∃ seq, i = .pktEom seq) →
    exec i s = .next { s with
      rx := { s.rx with lfr := s.rx.lfr + 1, phase := .done }
      ackOut := s.ackOut ++ [encAck (s.rx.lfr + 1)], reverse := Channel.add (encAck (s.rx.lfr + 1)) s.reverse
      forward := s.forward.erase d
      last := { labels := [.eom], effects := [.ackOut (encAck (s.rx.lfr + 1))], result := none } }

/-- R176, R70, R71: an in-window packet is stored; then the payloads under `LFR + 1, LFR + 2, …` are delivered as far as
they go, each before its ACK, and `LAF` is recomputed.  For a buffer in canonical form (an invariant) the last clauses say
it of the entries alone: the new payload replaces one under an equal number, every other stays bound, the run delivered is
the consecutive one and exactly it leaves the buffer.  The trace line `last` is the model's own (log entry 6), and that it
records the sink write of an empty payload is the model's choice (log entry 25). -/
def Obligations.AcceptedPacketIsBufferedAndDrained : Prop :=
  ∀ (i : Instr) (s : State) (d : Datagram) (seq : Int) (payload : Bytes), s.rx.phase = .listen →
    dataDatagram i = some d → classify s.rx.lfr s.rx.laf d = .accept seq payload →
    ∃ (ps : List Bytes) (t : State), exec i s = .next t ∧ RxFrame s t ∧
      (∀ (j : Nat) (p : Bytes), ps[j]? = some p → Store.get (s.rx.lfr + 1 + j) (Store.put seq payload s.rx.buf) = some p) ∧
      Store.get (s.rx.lfr + 1 + ps.length) (Store.put seq payload s.rx.buf) = none ∧
      t.rx = {
        phase := .listen, fault := s.rx.fault, lfr := s.rx.lfr + ps.length
        laf := s.rx.lfr + ps.length + s.rxPar.rws
        buf := (Store.put seq payload s.rx.buf).filter (fun e => !drainedKey s.rx.lfr ps.length e.1) } ∧
      t.rxPar = s.rxPar ∧ t.out = s.out ++ ps.flatten ∧
      t.ackOut = s.ackOut ++ acksAfter s.rx.lfr ps.length ∧
      t.reverse.Perm (s.reverse ++ acksAfter s.rx.lfr ps.length) ∧ t.forward = s.forward.erase d ∧
      t.last = { labels := [.accept ps.length], effects := drainEffects s.rx.lfr ps, result := none } ∧
      (Store.WF s.rx.buf → Store.WF t.rx.buf ∧
        (∀ (j : Nat) (p : Bytes), ps[j]? = some p → BoundAfterPut s.rx.buf seq payload (s.rx.lfr + 1 + j) p) ∧
        (∀ p : Bytes, ¬ BoundAfterPut s.rx.buf seq payload (s.rx.lfr + 1 + ps.length) p) ∧
        (∀ (k : Int) (p : Bytes), (k, p) ∈ t.rx.buf ↔
          (k ≤ s.rx.lfr ∨ s.rx.lfr + ps.length < k) ∧ BoundAfterPut s.rx.buf seq payload k p))

/-- R176 (1), R230, R70: a packet that is only buffered produces no datagram at all and delivers nothing; its payload is
bound to its number, in place of an earlier one, and every other entry stays. -/
def Obligations.BufferedPacketIsNotAcknowledged : Prop :=
  ∀ (i : Instr) (s : State) (d : Datagram) (seq : Int) (payload : Bytes), Inv s → s.rx.phase = .listen →
    dataDatagram i = some d → classify s.rx.lfr s.rx.laf d = .accept seq payload → seq ≠ s.rx.lfr + 1 →
    exec i s = .next { s with
      rx := { s.rx with buf := Store.put seq payload s.rx.buf }, forward := s.forward.erase d
      last := { labels := [.accept 0], effects := [], result := none } } ∧
    Store.WF (Store.put seq payload s.rx.buf) ∧
    ∀ (k : Int) (p : Bytes), (k, p) ∈ Store.put seq payload s.rx.buf ↔ BoundAfterPut s.rx.buf seq payload k p

/-- R180 (b), (d), R31: `LFR` only grows, `OUT` is only appended to and grows only with `LFR`, and the ACKs sent are
those of the frames passed, or one re-ACK of an unchanged `LFR`. -/
def Obligations.ReceiverOnlyMovesForward : Prop :=
  ∀ (i : Instr) (s t : State), exec i s = .next t → i ≠ .rxReset →
    ∃ n : Nat, t.rx.lfr = s.rx.lfr + n ∧ s.out <+: t.out ∧ (n = 0 → t.out = s.out) ∧
      (t.ackOut = s.ackOut ++ acksAfter s.rx.lfr n ∨ (n = 0 ∧ t.ackOut = s.ackOut ++ [encAck s.rx.lfr]))

/-- R179: every transition of `rx.phase`, and no other exists. -/
def Obligations.RxPhaseTransitions : Prop :=
  ∀ (i : Instr) (s t : State), exec i s = .next t → RxPhaseStep i s t

/-! ## The two engines -/

/-- R20: an operation of TX changes nothing of RX, of the host's streams, of the configuration registers. -/
def Obligations.TxOperationsFrame : Prop :=
  ∀ (i : Instr) (s t : State), txOp i = true → exec i s = .next t → TxFrame s t ∧
    (ackDatagram i = none → t.reverse = s.reverse) ∧ (∀ d, ackDatagram i = some d → t.reverse = s.reverse.erase d)

/-- R20: an operation of RX changes nothing of TX, of the source stream, of the configuration registers. -/
def Obligations.RxOperationsFrame : Prop :=
  ∀ (i : Instr) (s t : State), rxOp i = true → exec i s = .next t → RxFrame s t ∧
    (dataDatagram i = none → t.forward = s.forward ∧ t.out = s.out) ∧
    (∀ d, dataDatagram i = some d → t.forward = s.forward.erase d)

/-- R20: what an engine does depends on that engine alone: two states with the same sender (receiver), whatever else
they hold, give the same sender (receiver), the same emissions and the same trace line. -/
def Obligations.EnginesShareNothing : Prop :=
  (∀ (i : Instr) (s u t : State), txOp i = true → TxSame s u → exec i s = .next t →
    ∃ (v : State) (ds : List Datagram), exec i u = .next v ∧ TxSame t v ∧ t.last = v.last ∧
      t.pktOut = s.pktOut ++ ds ∧ v.pktOut = u.pktOut ++ ds) ∧
  (∀ (i : Instr) (s u t : State), rxOp i = true → RxSame s u → exec i s = .next t →
    ∃ (v : State) (as : List Datagram) (bs : Bytes), exec i u = .next v ∧ RxSame t v ∧ t.last = v.last ∧
      t.ackOut = s.ackOut ++ as ∧ v.ackOut = u.ackOut ++ as ∧ t.out = s.out ++ bs ∧ v.out = u.out ++ bs)

/-- R15, R76: an operation of TX and an operation of RX may run in either order, with the same state after both (the
trace line, the model's own, is that of the later one); the datagrams they work on are in flight. -/
def Obligations.EngineOperationsCommute : Prop :=
  ∀ (i j : Instr) (s a b : State), txOp i = true → rxOp j = true → ChannelInv s →
    (∀ d, ackDatagram i = some d → d ∈ s.reverse) → (∀ d, dataDatagram j = some d → d ∈ s.forward) →
    exec i s = .next a → exec j s = .next b →
    ∃ ab ba, exec j a = .next ab ∧ exec i b = .next ba ∧ ab = { ba with last := ab.last }

/-- R79: a session uses to its end the values START read, and no operation changes a configuration register. -/
def Obligations.ConfigurationIsLatchedAtStart : Prop :=
  ∀ (i : Instr) (s t : State), exec i s = .next t →
    t.build = s.build ∧ t.txCfg = s.txCfg ∧ t.rxCfg = s.rxCfg ∧ (i ≠ .txStart → t.txPar = s.txPar) ∧
    (i ≠ .rxStart → t.rxPar = s.rxPar)

/-! ## The step, the channel, the host -/

/-- An event, or a datagram in flight, that decodes to a well-formed operation runs it; with no input the machine
waits (log entry 4). -/
def Obligations.StepRunsTheDecodedInstruction : Prop :=
  ∀ s : State,
    (∀ (op : Byte) (len : Nat) (data : Bytes) (rest : List Input) (i : Instr),
      s.inputs = .event op len data :: rest → decode (.event op len data) = .ok i → i.wellFormed s.build = true →
      step s = exec i { s with inputs := rest }) ∧
    (∀ (p : Port) (d : Datagram) (rest : List Input) (i : Instr),
      s.inputs = .deliver p d :: rest → d ∈ s.channel p → decode (.datagram p d) = .ok i →
      i.wellFormed s.build = true → step s = exec i { s with inputs := rest }) ∧
    (s.inputs = [] → step s = .next s)

/-- R73, R75, R95, R203: a delivery at `rx.pkt_in` is an RX_PKT of the datagram and one at `tx.ack_in` a TX_ACK,
whatever its content; where the operation completes it has taken that one copy from its channel; a datagram that is not
in flight is not delivered. -/
def Obligations.DeliveryIsTheArrivalOperation : Prop :=
  ∀ (s : State) (d : Datagram) (rest : List Input), d.length ≤ s.build.maxPayload + 8 →
    (s.inputs = .deliver .pktIn d :: rest →
      (d ∈ s.forward → step s = exec (.rxPkt d) { s with inputs := rest }) ∧
      (d ∉ s.forward → step s = .fault .noSuchDatagram) ∧
      (∀ t, step s = .next t → s.forward.Perm (d :: t.forward))) ∧
    (s.inputs = .deliver .ackIn d :: rest →
      (d ∈ s.reverse → step s = exec (.txAck d) { s with inputs := rest }) ∧
      (d ∉ s.reverse → step s = .fault .noSuchDatagram) ∧
      (∀ t, step s = .next t → s.reverse.Perm (d :: t.reverse)))

/-- R75: drop, duplicate and corrupt, as moves of a multiset. -/
def Obligations.ChannelMoves : Prop :=
  ∀ (s : State) (p : Port) (d d' : Datagram) (rest : List Input), d ∈ s.channel p →
    (s.inputs = .drop p d :: rest → ∃ c, (d :: c).Perm (s.channel p) ∧
      step s = .next (State.setChannel p c { s with inputs := rest, last := Reply.empty })) ∧
    (s.inputs = .duplicate p d :: rest → ∃ c, c.Perm (d :: s.channel p) ∧
      step s = .next (State.setChannel p c { s with inputs := rest, last := Reply.empty })) ∧
    (s.inputs = .corrupt p d d' :: rest → d'.length ≤ s.build.maxPayload + 8 → ∃ c, (d :: c).Perm (d' :: s.channel p) ∧
      step s = .next (State.setChannel p c { s with inputs := rest, last := Reply.empty }))

/-- R39, R40, R41: what a host read answers, and that it has no side effect on the block (`freeCount` is the model's
own, log entry 7). -/
def Obligations.HostReadsTheRegisters : Prop :=
  ∀ (s : State) (reg : Byte) (rest : List Input), Inv s → s.inputs = .hostRead reg :: rest →
    ∃ (v : Word) (n : Nat), step s = .next { s with
        inputs := rest, last := { labels := [], effects := [], result := some (.register v) }, freeCount := n } ∧
      (reg = 0x10#8 → v = s.txCfg.pktSize) ∧ (reg = 0x11#8 → v = s.txCfg.sws) ∧ (reg = 0x12#8 → v = s.txCfg.rttTicks) ∧
      (reg = 0x13#8 → v = s.txCfg.finalTimeouts) ∧ (reg = 0x14#8 → v = s.txCfg.corruptLen) ∧
      (reg = 0x15#8 → v = s.txCfg.corruptIdx) ∧
      (reg = 0x16#8 → ∀ w, s.txCfg.corruptList[s.txCfg.corruptIdx.toNat]? = some w → v = w) ∧
      (reg = 0x18#8 → v = s.tx.phase.code.setWidth 32) ∧ (reg = 0x19#8 → v = (faultCode s.tx.fault).setWidth 32) ∧
      (reg = 0x1A#8 → v.toNat = s.tx.base) ∧ (reg = 0x1B#8 → v.toNat = s.tx.nextSeqNum) ∧
      (reg = 0x1C#8 → v.toNat = s.tx.window.length) ∧
      (reg = 0x1D#8 → v.toNat = if s.tx.eomQueued then 2147483648 + s.tx.eomSeq else 0) ∧
      (reg = 0x20#8 → v = s.rxCfg.rws) ∧
      (reg = 0x28#8 → v = s.rx.phase.code.setWidth 32) ∧ (reg = 0x29#8 → v = (faultCode s.rx.fault).setWidth 32) ∧
      (reg = 0x2A#8 → v = BitVec.ofInt 32 s.rx.lfr) ∧ (reg = 0x2B#8 → v.toNat = s.rx.buf.length) ∧
      (reg ∉ [0x10#8, 0x11#8, 0x12#8, 0x13#8, 0x14#8, 0x15#8, 0x16#8, 0x18#8, 0x19#8, 0x1A#8, 0x1B#8, 0x1C#8, 0x1D#8,
        0x20#8, 0x28#8, 0x29#8, 0x2A#8, 0x2B#8] → v = 0#32)

/-- R39, R40, R41, R79, R232: a host write reaches a configuration register of an engine in IDLE and nothing else.  That
`CORRUPT_VAL` written while `CORRUPT_IDX` selects no entry changes nothing (`List.set` past the end) is the model's choice
(log entry 7). -/
def Obligations.HostWritesOnlyInIdle : Prop :=
  ∀ (s : State) (reg : Byte) (v : Word) (rest : List Input), s.inputs = .hostWrite reg v :: rest →
    ∃ (ct : TxCfg) (cr : RxCfg), step s = .next { s with
        inputs := rest, last := { labels := [], effects := [], result := none }, txCfg := ct, rxCfg := cr } ∧
      (s.tx.phase ≠ .idle → ct = s.txCfg) ∧ (s.rx.phase ≠ .idle → cr = s.rxCfg) ∧
      (reg ∉ [0x10#8, 0x11#8, 0x12#8, 0x13#8, 0x14#8, 0x15#8, 0x16#8] → ct = s.txCfg) ∧
      (reg ≠ 0x20#8 → cr = s.rxCfg) ∧ (s.rx.phase = .idle → reg = 0x20#8 → cr = { rws := v }) ∧
      (s.tx.phase = .idle →
        (reg = 0x10#8 → ct = { s.txCfg with pktSize := v }) ∧ (reg = 0x11#8 → ct = { s.txCfg with sws := v }) ∧
        (reg = 0x12#8 → ct = { s.txCfg with rttTicks := v }) ∧ (reg = 0x13#8 → ct = { s.txCfg with finalTimeouts := v }) ∧
        (reg = 0x14#8 → ct = { s.txCfg with corruptLen := v }) ∧ (reg = 0x15#8 → ct = { s.txCfg with corruptIdx := v }) ∧
        (reg = 0x16#8 → ct = { s.txCfg with corruptList := s.txCfg.corruptList.set s.txCfg.corruptIdx.toNat v }))

/-- R66, R67: `SRC` is fixed while a session of TX runs, and `OUT` is only appended to while one of RX does.  That both
hold in the terminal phases too is the model's choice (log entry 12). -/
def Obligations.StreamsAreFixedForTheSession : Prop :=
  ∀ s t : State, step s = .next t →
    (s.tx.phase ≠ .idle → t.src = s.src) ∧ (s.rx.phase ≠ .idle → s.out <+: t.out)

/-! ## Invariants -/

/-- The invariant holds after power-on in every legal build with every content of the configuration registers.  That SRC,
OUT and the channels are then empty is the model's choice (log entry 18), and so are the zero latched parameters (log
entry 3) and the build and the registers of `State.reset` (log entries 2 and 3). -/
def Obligations.PowerOnMeetsTheInvariant : Prop :=
  (∀ (b : Config.Build) (ct : TxCfg) (cr : RxCfg), b.Legal → ct.corruptList.length = b.maxCorrupt →
    Inv (State.powerOn b ct cr) ∧ WindowExact (State.powerOn b ct cr) ∧ Honest (State.powerOn b ct cr)) ∧
  Inv State.reset

/-- Every step keeps the invariant: the canonical form of window, buffer and channels, the capacity bounds, the
contents of window and buffer, the ranges of the registers, the timer and the fault codes (R22 to R33, R36, R37). -/
def Obligations.StepKeepsTheInvariant : Prop :=
  ∀ s t : State, Inv s → step s = .next t → Inv t

/-- R36: under premise ACK-SANE every step keeps `base ≤ keys < nextSeqNum`, with exactly the packets numbered
`base .. nextSeqNum - 1` in the window. -/
def Obligations.AckSaneStepsKeepTheWindowExact : Prop :=
  ∀ s t : State, Inv s → WindowExact s → AckSane s → step s = .next t → WindowExact t

/-- R78, with honest inputs on the forward channel (loss, duplication and reordering; no corruption, no forgery):
every step keeps `OUT` the concatenation of the chunks `0 .. LFR` and the buffer's payloads the chunks of their
numbers. -/
def Obligations.HonestStepsKeepDeliveryInOrder : Prop :=
  ∀ s t : State, Inv s → Honest s → HonestInput s → step s = .next t → Honest t

/-- R78: after every step of an honest session, what has reached the sink is a prefix of the source stream. -/
def Obligations.DeliveredBytesAreAPrefixOfTheSource : Prop :=
  ∀ s t : State, Inv s → Honest s → HonestInput s → step s = .next t → t.out <+: t.src

/-! ## The stores and the streams -/

/-- R68 to R71: on stores in canonical form the primitives of the window and of the reorder buffer are the operations of a
finite map, said of the entries: a write binds its key in place of an earlier binding and leaves every other entry, an
eviction keeps exactly the keys from `b` on, a take answers the binding and removes exactly its key, `WinAscending` lists
the records in ascending order.  Each keeps the canonical form and changes nothing but its store. -/
def Obligations.StorePrimitivesAreMapOperations : Prop :=
  ∀ s : State, Store.WF s.tx.window → Store.WF s.rx.buf →
    (∀ p : Packet, ∃ m, winPut p s = { s with tx := { s.tx with window := m } } ∧ Store.WF m ∧
      ∀ (k : Int) (q : Packet), (k, q) ∈ m ↔ BoundAfterPut s.tx.window p.seq p k q) ∧
    (∀ b : Nat, ∃ m, winEvictBelow b s = { s with tx := { s.tx with window := m } } ∧ Store.WF m ∧
      ∀ (k : Int) (q : Packet), (k, q) ∈ m ↔ (b : Int) ≤ k ∧ (k, q) ∈ s.tx.window) ∧
    ((∀ e ∈ s.tx.window, e.2.seq = e.1) → (winAscending s).Pairwise (fun p q => p.seq < q.seq) ∧
      ∀ q : Packet, q ∈ winAscending s ↔ (q.seq, q) ∈ s.tx.window) ∧
    (∀ (key : Int) (payload : Bytes), ∃ m, bufPut key payload s = { s with rx := { s.rx with buf := m } } ∧ Store.WF m ∧
      ∀ (k : Int) (p : Bytes), (k, p) ∈ m ↔ BoundAfterPut s.rx.buf key payload k p) ∧
    (∀ key : Int, bufHas key s = true ↔ ∃ p, (key, p) ∈ s.rx.buf) ∧
    (∀ (key : Int) (payload : Bytes), (key, payload) ∈ s.rx.buf →
      ∃ m, bufTake key s = (payload, { s with rx := { s.rx with buf := m } }) ∧ Store.WF m ∧
        ∀ (k : Int) (p : Bytes), (k, p) ∈ m ↔ k ≠ key ∧ (k, p) ∈ s.rx.buf)

/-- R66, R67, R222 (3): before START the host supplies the source stream of TX and opens an empty sink for RX, and nothing
else changes.  That an input which would replace either in another phase, the terminal ones too, is refused is the model's
choice (log entry 12). -/
def Obligations.HostSuppliesTheStreamsBeforeStart : Prop :=
  ∀ (s : State) (rest : List Input),
    (∀ bytes : Bytes, s.inputs = .hostSource bytes :: rest →
      (s.tx.phase = .idle → step s = .next { s with
        inputs := rest, src := bytes, last := { labels := [], effects := [], result := none } }) ∧
      (s.tx.phase ≠ .idle → step s = .refused .sourceInUse)) ∧
    (s.inputs = .hostSink :: rest →
      (s.rx.phase = .idle → step s = .next { s with
        inputs := rest, out := [], last := { labels := [], effects := [], result := none } }) ∧
      (s.rx.phase ≠ .idle → step s = .refused .sinkInUse))
end

