-- ==== Sys2Proof/Laws/Channel.lean ====
section
/-! SUPPORT. The laws of the channels (R75): adding and removing a copy, and that the list form is canonical. -/

namespace Sys2Proof.Machine

theorem bytesLe_refl (a : Bytes) : bytesLe a a = true := by
  induction a with
  | nil => rfl
  | cons x a ih => simp [bytesLe, ih]

theorem bytesLe_total (a b : Bytes) : bytesLe a b = true ∨ bytesLe b a = true := by
  induction a generalizing b with
  | nil => exact .inl rfl
  | cons x a ih =>
    cases b with
    | nil => exact .inr rfl
    | cons y b =>
      simp only [bytesLe, Bool.or_eq_true, decide_eq_true_eq, Bool.and_eq_true, beq_iff_eq]
      rcases Nat.lt_trichotomy x.toNat y.toNat with h | h | h
      · exact .inl (.inl h)
      · have hxy : x = y := BitVec.eq_of_toNat_eq h
        rcases ih b with h' | h'
        · exact .inl (.inr ⟨hxy, h'⟩)
        · exact .inr (.inr ⟨hxy.symm, h'⟩)
      · exact .inr (.inl h)

theorem bytesLe_trans {a b c : Bytes} (h : bytesLe a b = true) (h' : bytesLe b c = true) : bytesLe a c = true := by
  induction a generalizing b c with
  | nil => rfl
  | cons x a ih =>
    cases b with
    | nil => simp [bytesLe] at h
    | cons y b =>
      cases c with
      | nil => simp [bytesLe] at h'
      | cons z c =>
        simp only [bytesLe, Bool.or_eq_true, decide_eq_true_eq, Bool.and_eq_true, beq_iff_eq] at *
        rcases h with h | ⟨rfl, h⟩ <;> rcases h' with h' | ⟨rfl, h'⟩
        · exact .inl (Nat.lt_trans h h')
        · exact .inl h
        · exact .inl h'
        · exact .inr ⟨rfl, ih h h'⟩

theorem bytesLe_antisymm {a b : Bytes} (h : bytesLe a b = true) (h' : bytesLe b a = true) : a = b := by
  induction a generalizing b with
  | nil => cases b with
    | nil => rfl
    | cons y b => simp [bytesLe] at h'
  | cons x a ih =>
    cases b with
    | nil => simp [bytesLe] at h
    | cons y b =>
      simp only [bytesLe, Bool.or_eq_true, decide_eq_true_eq, Bool.and_eq_true, beq_iff_eq] at *
      rcases h with h | ⟨rfl, h⟩ <;> rcases h' with h' | ⟨h1, h'⟩
      · omega
      · subst h1; omega
      · omega
      · rw [ih h h']

theorem Channel.mem_add {d e : Datagram} {c : Channel} : e ∈ Channel.add d c ↔ e = d ∨ e ∈ c := by
  induction c with
  | nil => simp [Channel.add]
  | cons f c ih =>
    simp only [Channel.add]
    split
    · simp
    · simp only [List.mem_cons, ih]
      tauto

/-- Adding puts exactly one more copy in flight. -/
theorem Channel.add_perm (d : Datagram) (c : Channel) : (Channel.add d c).Perm (d :: c) := by
  induction c with
  | nil => exact .refl _
  | cons f c ih =>
    simp only [Channel.add]
    split
    · exact .refl _
    · exact (ih.cons f).trans (.swap d f c)

theorem Channel.add_wf {d : Datagram} {c : Channel} (h : Channel.WF c) : Channel.WF (Channel.add d c) := by
  induction c with
  | nil => simp [Channel.add, Channel.WF]
  | cons f c ih =>
    have hf := List.pairwise_cons.1 h
    simp only [Channel.add]
    split
    · rename_i hle
      refine List.pairwise_cons.2 ⟨fun e he => ?_, h⟩
      rcases List.mem_cons.1 he with rfl | he
      · exact hle
      · exact bytesLe_trans hle (hf.1 e he)
    · rename_i hle
      refine List.pairwise_cons.2 ⟨fun e he => ?_, ih hf.2⟩
      rcases Channel.mem_add.1 he with rfl | he
      · exact (bytesLe_total e f).resolve_left (by simpa using hle)
      · exact hf.1 e he

theorem Channel.remove_wf {d : Datagram} {c : Channel} (h : Channel.WF c) : Channel.WF (Channel.remove d c) :=
  List.Pairwise.sublist List.erase_sublist h

theorem Channel.mem_of_mem_remove {d e : Datagram} {c : Channel} (h : e ∈ Channel.remove d c) : e ∈ c :=
  List.mem_of_mem_erase h

/-- Removing takes exactly one copy out. -/
theorem Channel.remove_perm {d : Datagram} {c : Channel} (h : d ∈ c) : c.Perm (d :: Channel.remove d c) :=
  List.perm_cons_erase h

/-- The list form is canonical: the same multiset in flight is the same list. -/
theorem Channel.eq_of_perm {c c' : Channel} (h : Channel.WF c) (h' : Channel.WF c') (hp : c.Perm c') : c = c' :=
  List.Perm.eq_of_pairwise (fun _ _ _ _ hab hba => bytesLe_antisymm hab hba) h h' hp

end Sys2Proof.Machine
end

