-- ==== Sys2Proof/Laws/Codec.lean ====
section
/-! SUPPORT. The laws of the codec: byte order, the round trips of R127, and what CRC32 detects (R122, R132). -/

namespace Sys2Proof

theorem unbe32_be32 (w : Word) :
    unbe32 (w.extractLsb' 24 8) (w.extractLsb' 16 8) (w.extractLsb' 8 8) (w.extractLsb' 0 8) = w := by
  apply BitVec.eq_of_getLsbD_eq
  intro i hi
  simp only [unbe32, BitVec.getLsbD_append, BitVec.getLsbD_extractLsb']
  rcases Nat.lt_or_ge i 8 with h | h
  · simp [h]
  rcases Nat.lt_or_ge i 16 with h1 | h1
  · simp [show ¬ i < 8 by omega, show i - 8 < 8 by omega, show 8 + (i - 8) = i by omega]
  rcases Nat.lt_or_ge i 24 with h2 | h2
  · simp [show ¬ i < 8 by omega, show ¬ i - 8 < 8 by omega, show i - 8 - 8 < 8 by omega,
      show 16 + (i - 8 - 8) = i by omega]
  · simp [show ¬ i < 8 by omega, show ¬ i - 8 < 8 by omega, show ¬ i - 8 - 8 < 8 by omega,
      show i - 8 - 8 - 8 < 8 by omega, show 24 + (i - 8 - 8 - 8) = i by omega]

theorem be32_unbe32 (b0 b1 b2 b3 : Byte) : be32 (unbe32 b0 b1 b2 b3) = [b0, b1, b2, b3] := by
  simp only [be32, unbe32, List.cons.injEq, and_true]
  refine ⟨?_, ?_, ?_, ?_⟩ <;>
    (apply BitVec.eq_of_getLsbD_eq; intro i hi; simp only [BitVec.getLsbD_append, BitVec.getLsbD_extractLsb'])
  · simp [hi, show ¬ 24 + i < 8 by omega, show ¬ 24 + i - 8 < 8 by omega, show ¬ 24 + i - 8 - 8 < 8 by omega,
      show 24 + i - 8 - 8 - 8 = i by omega]
  · simp [hi, show ¬ 16 + i < 8 by omega, show ¬ 16 + i - 8 < 8 by omega,
      show 16 + i - 8 - 8 = i by omega]
  · simp [hi, show ¬ 8 + i < 8 by omega]
  · simp [hi]

@[simp] theorem be32_length (w : Word) : (be32 w).length = 4 := rfl

theorem s32_u32 {v : Int} (h : -2147483648 ≤ v) (h' : v ≤ 2147483647) : Machine.s32 (Machine.u32 v) = v := by
  simp only [Machine.s32, Machine.u32, BitVec.toInt_ofInt]
  exact Int.bmod_eq_of_le (by omega) (by omega)

theorem u32_s32 (w : Word) : Machine.u32 (Machine.s32 w) = w := BitVec.ofInt_toInt

namespace Machine

theorem s32_range (w : Word) : -2147483648 ≤ s32 w ∧ s32 w ≤ 2147483647 := by
  have h := BitVec.le_toInt w
  have h' := BitVec.toInt_lt (x := w)
  simp only [s32]
  omega

/-- Decoding eight header bytes and a payload (R90, R91). -/
theorem decPkt_bytes (seq checksum : Word) (payload : Bytes) :
    decPkt (be32 seq ++ be32 checksum ++ payload) =
      some { seq := s32 seq, checksum := checksum, payload := payload } := by
  show some _ = _
  simp only [unbe32_be32]
  rfl

/-- R127: a packet whose number fits the wire comes back. -/
theorem decPkt_encPkt {p : Packet} (h : -2147483648 ≤ p.seq) (h' : p.seq ≤ 2147483647) :
    decPkt (encPkt p) = some p := by
  rw [encPkt, decPkt_bytes, s32_u32 h h']

/-- R127, conversely: re-encoding what was decoded gives the datagram back. -/
theorem encPkt_decPkt {d : Datagram} {p : Packet} (h : decPkt d = some p) : encPkt p = d := by
  unfold decPkt at h
  split at h
  · cases h
    simp [encPkt, u32_s32, be32_unbe32]
  · cases h

/-- DEC_PKT fails exactly under 8 bytes (R124, R191). -/
theorem decPkt_eq_none {d : Datagram} : decPkt d = none ↔ d.length < 8 := by
  rcases d with _ | ⟨_, _ | ⟨_, _ | ⟨_, _ | ⟨_, _ | ⟨_, _ | ⟨_, _ | ⟨_, _ | ⟨_, _⟩⟩⟩⟩⟩⟩⟩⟩ <;> simp [decPkt]

theorem decAck_encAck {v : Int} (h : -2147483648 ≤ v) (h' : v ≤ 2147483647) : decAck (encAck v) = some v := by
  show some (s32 (unbe32 _ _ _ _)) = _
  rw [unbe32_be32, s32_u32 h h']

/-- DEC_ACK fails exactly under 4 bytes (R126, R198). -/
theorem decAck_eq_none {d : Datagram} : decAck d = none ↔ d.length < 4 := by
  rcases d with _ | ⟨_, _ | ⟨_, _ | ⟨_, _ | ⟨_, _⟩⟩⟩⟩ <;> simp [decAck]

/-- A value from the wire fits 32 bits (R128). -/
theorem decAck_range {d : Datagram} {v : Int} (h : decAck d = some v) : -2147483648 ≤ v ∧ v ≤ 2147483647 := by
  unfold decAck at h
  split at h
  · cases h
    exact s32_range _
  · cases h

theorem decPkt_range {d : Datagram} {p : Packet} (h : decPkt d = some p) :
    -2147483648 ≤ p.seq ∧ p.seq ≤ 2147483647 := by
  unfold decPkt at h
  split at h
  · cases h
    exact s32_range _
  · cases h

theorem decPkt_length {d : Datagram} {p : Packet} (h : decPkt d = some p) : d.length = p.payload.length + 8 := by
  unfold decPkt at h
  split at h
  · cases h
    rfl
  · cases h

@[simp] theorem encPkt_length (p : Packet) : (encPkt p).length = p.payload.length + 8 := by
  simp [encPkt]
  omega

@[simp] theorem encAck_length (v : Int) : (encAck v).length = 4 := rfl

@[simp] theorem corrupt_length (d : Datagram) : (corrupt d).length = d.length := by
  unfold corrupt
  split <;> rfl

theorem isEom_iff {p : Bytes} : isEom p = true ↔ p = [0xFF#8] := by
  simp [isEom, eomPayload]

theorem verify_iff {c : Word} {p : Bytes} : verify c p = true ↔ crc32 p = c := by
  simp [verify]

theorem verify_mkPkt (n : Int) (p : Bytes) : verify (mkPkt n p).checksum (mkPkt n p).payload = true := by
  simp [verify, mkPkt]

theorem crc32_eom : crc32 eomPayload = 0xFF000000#32 := by decide +kernel

/-! ## CRC32 is linear and detects a flipped bit -/

/-- One shift keeps two registers apart: the top bit tells which branch was taken. -/
theorem crcBit_injective {a b : Word} (h : crcBit a = crcBit b) : a = b := by
  have key (x y : Word) : (x >>> 1) ^^^ 0xEDB88320#32 ≠ y >>> 1 := by
    intro h
    have := congrArg (·.getLsbD 31) h
    simp at this
  have shift {x y : Word} (h0 : x.getLsbD 0 = y.getLsbD 0) (h : x >>> 1 = y >>> 1) : x = y := by
    apply BitVec.eq_of_getLsbD_eq
    intro i hi
    rcases i with _ | i
    · exact h0
    · have := congrArg (·.getLsbD i) h
      simpa [Nat.add_comm] using this
  unfold crcBit at h
  split at h <;> split at h
  · rename_i h1 h2
    exact shift (by rw [h1, h2]) ((BitVec.xor_left_inj _).1 h)
  · exact absurd h (key _ _)
  · exact absurd h.symm (key _ _)
  · rename_i h1 h2
    exact shift ((Bool.eq_false_of_not_eq_true h1).trans (Bool.eq_false_of_not_eq_true h2).symm) h

theorem crcBits_injective {n : Nat} {a b : Word} (h : crcBits n a = crcBits n b) : a = b := by
  induction n generalizing a b with
  | zero => exact h
  | succ n ih => exact crcBit_injective (ih h)

theorem crcByte_injective {b : Byte} {a c : Word} (h : crcByte a b = crcByte c b) : a = c :=
  (BitVec.xor_left_inj _).1 (crcBits_injective h)

theorem crcFold_injective {p : Bytes} {a c : Word} (h : p.foldl crcByte a = p.foldl crcByte c) : a = c := by
  induction p generalizing a c with
  | nil => exact h
  | cons b p ih => exact crcByte_injective (ih h)

/-- R122 (b): two payloads of one length that differ in one byte have different checksums. -/
theorem crc32_one_byte {p q : Bytes} {a b : Byte} (h : a ≠ b) : crc32 (p ++ a :: q) ≠ crc32 (p ++ b :: q) := by
  intro he
  have he := (BitVec.xor_left_inj _).1 he
  simp only [List.foldl_append, List.foldl_cons] at he
  have he := (BitVec.xor_right_inj _).1 (crcBits_injective (crcFold_injective he))
  have := congrArg (·.toNat) he
  simp only [BitVec.toNat_setWidth] at this
  rw [Nat.mod_eq_of_lt (by omega), Nat.mod_eq_of_lt (by omega)] at this
  exact h (BitVec.eq_of_toNat_eq this)

/-- R132: a corrupted packet decodes, and its checksum does not fit. -/
theorem verify_corrupt {seq : Int} {payload : Bytes} (h : payload ≠ []) :
    ∃ p, decPkt (corrupt (encPkt (mkPkt seq payload))) = some p ∧ verify p.checksum p.payload = false := by
  cases payload with
  | nil => exact absurd rfl h
  | cons b q =>
    refine ⟨{ seq := s32 (u32 seq), checksum := crc32 (b :: q), payload := (b ^^^ 0x01#8) :: q }, ?_, ?_⟩
    · show some _ = _
      simp only [unbe32_be32]
      rfl
    · simp only [verify, beq_eq_false_iff_ne]
      refine crc32_one_byte (p := []) fun he => ?_
      have := congrArg (·.getLsbD 0) he
      simp at this

end Machine

end Sys2Proof
end

