-- ==== Sys2Proof/Laws/State.lean ====
section
/-! SUPPORT. One lemma per field per named update of the state: what it writes and what it leaves. -/

namespace Sys2Proof.Machine

variable (s : State)

@[simp] theorem clearReply_build : (clearReply s).build = s.build := rfl
@[simp] theorem clearReply_tx : (clearReply s).tx = s.tx := rfl
@[simp] theorem clearReply_txPar : (clearReply s).txPar = s.txPar := rfl
@[simp] theorem clearReply_txCfg : (clearReply s).txCfg = s.txCfg := rfl
@[simp] theorem clearReply_rx : (clearReply s).rx = s.rx := rfl
@[simp] theorem clearReply_rxPar : (clearReply s).rxPar = s.rxPar := rfl
@[simp] theorem clearReply_rxCfg : (clearReply s).rxCfg = s.rxCfg := rfl
@[simp] theorem clearReply_src : (clearReply s).src = s.src := rfl
@[simp] theorem clearReply_out : (clearReply s).out = s.out := rfl
@[simp] theorem clearReply_pktOut : (clearReply s).pktOut = s.pktOut := rfl
@[simp] theorem clearReply_ackOut : (clearReply s).ackOut = s.ackOut := rfl
@[simp] theorem clearReply_forward : (clearReply s).forward = s.forward := rfl
@[simp] theorem clearReply_reverse : (clearReply s).reverse = s.reverse := rfl
@[simp] theorem clearReply_inputs : (clearReply s).inputs = s.inputs := rfl
@[simp] theorem clearReply_last : (clearReply s).last = Reply.empty := rfl
@[simp] theorem clearReply_freeCount : (clearReply s).freeCount = s.freeCount := rfl

@[simp] theorem setLabels_build (ls : List Label) : (setLabels ls s).build = s.build := rfl
@[simp] theorem setLabels_tx (ls : List Label) : (setLabels ls s).tx = s.tx := rfl
@[simp] theorem setLabels_txPar (ls : List Label) : (setLabels ls s).txPar = s.txPar := rfl
@[simp] theorem setLabels_txCfg (ls : List Label) : (setLabels ls s).txCfg = s.txCfg := rfl
@[simp] theorem setLabels_rx (ls : List Label) : (setLabels ls s).rx = s.rx := rfl
@[simp] theorem setLabels_rxPar (ls : List Label) : (setLabels ls s).rxPar = s.rxPar := rfl
@[simp] theorem setLabels_rxCfg (ls : List Label) : (setLabels ls s).rxCfg = s.rxCfg := rfl
@[simp] theorem setLabels_src (ls : List Label) : (setLabels ls s).src = s.src := rfl
@[simp] theorem setLabels_out (ls : List Label) : (setLabels ls s).out = s.out := rfl
@[simp] theorem setLabels_pktOut (ls : List Label) : (setLabels ls s).pktOut = s.pktOut := rfl
@[simp] theorem setLabels_ackOut (ls : List Label) : (setLabels ls s).ackOut = s.ackOut := rfl
@[simp] theorem setLabels_forward (ls : List Label) : (setLabels ls s).forward = s.forward := rfl
@[simp] theorem setLabels_reverse (ls : List Label) : (setLabels ls s).reverse = s.reverse := rfl
@[simp] theorem setLabels_inputs (ls : List Label) : (setLabels ls s).inputs = s.inputs := rfl
@[simp] theorem setLabels_last (ls : List Label) : (setLabels ls s).last = { s.last with labels := ls } := rfl
@[simp] theorem setLabels_freeCount (ls : List Label) : (setLabels ls s).freeCount = s.freeCount := rfl

@[simp] theorem setResult_build (r : Result) : (setResult r s).build = s.build := rfl
@[simp] theorem setResult_tx (r : Result) : (setResult r s).tx = s.tx := rfl
@[simp] theorem setResult_txPar (r : Result) : (setResult r s).txPar = s.txPar := rfl
@[simp] theorem setResult_txCfg (r : Result) : (setResult r s).txCfg = s.txCfg := rfl
@[simp] theorem setResult_rx (r : Result) : (setResult r s).rx = s.rx := rfl
@[simp] theorem setResult_rxPar (r : Result) : (setResult r s).rxPar = s.rxPar := rfl
@[simp] theorem setResult_rxCfg (r : Result) : (setResult r s).rxCfg = s.rxCfg := rfl
@[simp] theorem setResult_src (r : Result) : (setResult r s).src = s.src := rfl
@[simp] theorem setResult_out (r : Result) : (setResult r s).out = s.out := rfl
@[simp] theorem setResult_pktOut (r : Result) : (setResult r s).pktOut = s.pktOut := rfl
@[simp] theorem setResult_ackOut (r : Result) : (setResult r s).ackOut = s.ackOut := rfl
@[simp] theorem setResult_forward (r : Result) : (setResult r s).forward = s.forward := rfl
@[simp] theorem setResult_reverse (r : Result) : (setResult r s).reverse = s.reverse := rfl
@[simp] theorem setResult_inputs (r : Result) : (setResult r s).inputs = s.inputs := rfl
@[simp] theorem setResult_last (r : Result) : (setResult r s).last = { s.last with result := some r } := rfl
@[simp] theorem setResult_freeCount (r : Result) : (setResult r s).freeCount = s.freeCount := rfl

@[simp] theorem recordEffect_build (e : Effect) : (recordEffect e s).build = s.build := rfl
@[simp] theorem recordEffect_tx (e : Effect) : (recordEffect e s).tx = s.tx := rfl
@[simp] theorem recordEffect_txPar (e : Effect) : (recordEffect e s).txPar = s.txPar := rfl
@[simp] theorem recordEffect_txCfg (e : Effect) : (recordEffect e s).txCfg = s.txCfg := rfl
@[simp] theorem recordEffect_rx (e : Effect) : (recordEffect e s).rx = s.rx := rfl
@[simp] theorem recordEffect_rxPar (e : Effect) : (recordEffect e s).rxPar = s.rxPar := rfl
@[simp] theorem recordEffect_rxCfg (e : Effect) : (recordEffect e s).rxCfg = s.rxCfg := rfl
@[simp] theorem recordEffect_src (e : Effect) : (recordEffect e s).src = s.src := rfl
@[simp] theorem recordEffect_out (e : Effect) : (recordEffect e s).out = s.out := rfl
@[simp] theorem recordEffect_pktOut (e : Effect) : (recordEffect e s).pktOut = s.pktOut := rfl
@[simp] theorem recordEffect_ackOut (e : Effect) : (recordEffect e s).ackOut = s.ackOut := rfl
@[simp] theorem recordEffect_forward (e : Effect) : (recordEffect e s).forward = s.forward := rfl
@[simp] theorem recordEffect_reverse (e : Effect) : (recordEffect e s).reverse = s.reverse := rfl
@[simp] theorem recordEffect_inputs (e : Effect) : (recordEffect e s).inputs = s.inputs := rfl
@[simp] theorem recordEffect_last (e : Effect) :
    (recordEffect e s).last = { s.last with effects := s.last.effects ++ [e] } := rfl
@[simp] theorem recordEffect_freeCount (e : Effect) : (recordEffect e s).freeCount = s.freeCount := rfl

@[simp] theorem emitPkt_build (d : Datagram) : (emit .pktOut d s).build = s.build := rfl
@[simp] theorem emitPkt_tx (d : Datagram) : (emit .pktOut d s).tx = s.tx := rfl
@[simp] theorem emitPkt_txPar (d : Datagram) : (emit .pktOut d s).txPar = s.txPar := rfl
@[simp] theorem emitPkt_txCfg (d : Datagram) : (emit .pktOut d s).txCfg = s.txCfg := rfl
@[simp] theorem emitPkt_rx (d : Datagram) : (emit .pktOut d s).rx = s.rx := rfl
@[simp] theorem emitPkt_rxPar (d : Datagram) : (emit .pktOut d s).rxPar = s.rxPar := rfl
@[simp] theorem emitPkt_rxCfg (d : Datagram) : (emit .pktOut d s).rxCfg = s.rxCfg := rfl
@[simp] theorem emitPkt_src (d : Datagram) : (emit .pktOut d s).src = s.src := rfl
@[simp] theorem emitPkt_out (d : Datagram) : (emit .pktOut d s).out = s.out := rfl
@[simp] theorem emitPkt_pktOut (d : Datagram) : (emit .pktOut d s).pktOut = s.pktOut ++ [d] := rfl
@[simp] theorem emitPkt_ackOut (d : Datagram) : (emit .pktOut d s).ackOut = s.ackOut := rfl
@[simp] theorem emitPkt_forward (d : Datagram) : (emit .pktOut d s).forward = Channel.add d s.forward := rfl
@[simp] theorem emitPkt_reverse (d : Datagram) : (emit .pktOut d s).reverse = s.reverse := rfl
@[simp] theorem emitPkt_inputs (d : Datagram) : (emit .pktOut d s).inputs = s.inputs := rfl
@[simp] theorem emitPkt_last (d : Datagram) :
    (emit .pktOut d s).last = { s.last with effects := s.last.effects ++ [.pktOut d] } := rfl
@[simp] theorem emitPkt_freeCount (d : Datagram) : (emit .pktOut d s).freeCount = s.freeCount := rfl

@[simp] theorem emitAckOut_build (d : Datagram) : (emit .ackOut d s).build = s.build := rfl
@[simp] theorem emitAckOut_tx (d : Datagram) : (emit .ackOut d s).tx = s.tx := rfl
@[simp] theorem emitAckOut_txPar (d : Datagram) : (emit .ackOut d s).txPar = s.txPar := rfl
@[simp] theorem emitAckOut_txCfg (d : Datagram) : (emit .ackOut d s).txCfg = s.txCfg := rfl
@[simp] theorem emitAckOut_rx (d : Datagram) : (emit .ackOut d s).rx = s.rx := rfl
@[simp] theorem emitAckOut_rxPar (d : Datagram) : (emit .ackOut d s).rxPar = s.rxPar := rfl
@[simp] theorem emitAckOut_rxCfg (d : Datagram) : (emit .ackOut d s).rxCfg = s.rxCfg := rfl
@[simp] theorem emitAckOut_src (d : Datagram) : (emit .ackOut d s).src = s.src := rfl
@[simp] theorem emitAckOut_out (d : Datagram) : (emit .ackOut d s).out = s.out := rfl
@[simp] theorem emitAckOut_pktOut (d : Datagram) : (emit .ackOut d s).pktOut = s.pktOut := rfl
@[simp] theorem emitAckOut_ackOut (d : Datagram) : (emit .ackOut d s).ackOut = s.ackOut ++ [d] := rfl
@[simp] theorem emitAckOut_forward (d : Datagram) : (emit .ackOut d s).forward = s.forward := rfl
@[simp] theorem emitAckOut_reverse (d : Datagram) : (emit .ackOut d s).reverse = Channel.add d s.reverse := rfl
@[simp] theorem emitAckOut_inputs (d : Datagram) : (emit .ackOut d s).inputs = s.inputs := rfl
@[simp] theorem emitAckOut_last (d : Datagram) :
    (emit .ackOut d s).last = { s.last with effects := s.last.effects ++ [.ackOut d] } := rfl
@[simp] theorem emitAckOut_freeCount (d : Datagram) : (emit .ackOut d s).freeCount = s.freeCount := rfl

@[simp] theorem sinkWrite_build (b : Bytes) : (sinkWrite b s).build = s.build := rfl
@[simp] theorem sinkWrite_tx (b : Bytes) : (sinkWrite b s).tx = s.tx := rfl
@[simp] theorem sinkWrite_txPar (b : Bytes) : (sinkWrite b s).txPar = s.txPar := rfl
@[simp] theorem sinkWrite_txCfg (b : Bytes) : (sinkWrite b s).txCfg = s.txCfg := rfl
@[simp] theorem sinkWrite_rx (b : Bytes) : (sinkWrite b s).rx = s.rx := rfl
@[simp] theorem sinkWrite_rxPar (b : Bytes) : (sinkWrite b s).rxPar = s.rxPar := rfl
@[simp] theorem sinkWrite_rxCfg (b : Bytes) : (sinkWrite b s).rxCfg = s.rxCfg := rfl
@[simp] theorem sinkWrite_src (b : Bytes) : (sinkWrite b s).src = s.src := rfl
@[simp] theorem sinkWrite_out (b : Bytes) : (sinkWrite b s).out = s.out ++ b := rfl
@[simp] theorem sinkWrite_pktOut (b : Bytes) : (sinkWrite b s).pktOut = s.pktOut := rfl
@[simp] theorem sinkWrite_ackOut (b : Bytes) : (sinkWrite b s).ackOut = s.ackOut := rfl
@[simp] theorem sinkWrite_forward (b : Bytes) : (sinkWrite b s).forward = s.forward := rfl
@[simp] theorem sinkWrite_reverse (b : Bytes) : (sinkWrite b s).reverse = s.reverse := rfl
@[simp] theorem sinkWrite_inputs (b : Bytes) : (sinkWrite b s).inputs = s.inputs := rfl
@[simp] theorem sinkWrite_last (b : Bytes) :
    (sinkWrite b s).last = { s.last with effects := s.last.effects ++ [.sink b] } := rfl
@[simp] theorem sinkWrite_freeCount (b : Bytes) : (sinkWrite b s).freeCount = s.freeCount := rfl

@[simp] theorem winPut_build (p : Packet) : (winPut p s).build = s.build := rfl
@[simp] theorem winPut_tx (p : Packet) : (winPut p s).tx = { s.tx with window := Store.put p.seq p s.tx.window } := rfl
@[simp] theorem winPut_txPar (p : Packet) : (winPut p s).txPar = s.txPar := rfl
@[simp] theorem winPut_txCfg (p : Packet) : (winPut p s).txCfg = s.txCfg := rfl
@[simp] theorem winPut_rx (p : Packet) : (winPut p s).rx = s.rx := rfl
@[simp] theorem winPut_rxPar (p : Packet) : (winPut p s).rxPar = s.rxPar := rfl
@[simp] theorem winPut_rxCfg (p : Packet) : (winPut p s).rxCfg = s.rxCfg := rfl
@[simp] theorem winPut_src (p : Packet) : (winPut p s).src = s.src := rfl
@[simp] theorem winPut_out (p : Packet) : (winPut p s).out = s.out := rfl
@[simp] theorem winPut_pktOut (p : Packet) : (winPut p s).pktOut = s.pktOut := rfl
@[simp] theorem winPut_ackOut (p : Packet) : (winPut p s).ackOut = s.ackOut := rfl
@[simp] theorem winPut_forward (p : Packet) : (winPut p s).forward = s.forward := rfl
@[simp] theorem winPut_reverse (p : Packet) : (winPut p s).reverse = s.reverse := rfl
@[simp] theorem winPut_inputs (p : Packet) : (winPut p s).inputs = s.inputs := rfl
@[simp] theorem winPut_last (p : Packet) : (winPut p s).last = s.last := rfl
@[simp] theorem winPut_freeCount (p : Packet) : (winPut p s).freeCount = s.freeCount := rfl

@[simp] theorem winEvictBelow_build (b : Nat) : (winEvictBelow b s).build = s.build := rfl
@[simp] theorem winEvictBelow_tx (b : Nat) :
    (winEvictBelow b s).tx = { s.tx with window := Store.keepFrom b s.tx.window } := rfl
@[simp] theorem winEvictBelow_txPar (b : Nat) : (winEvictBelow b s).txPar = s.txPar := rfl
@[simp] theorem winEvictBelow_txCfg (b : Nat) : (winEvictBelow b s).txCfg = s.txCfg := rfl
@[simp] theorem winEvictBelow_rx (b : Nat) : (winEvictBelow b s).rx = s.rx := rfl
@[simp] theorem winEvictBelow_rxPar (b : Nat) : (winEvictBelow b s).rxPar = s.rxPar := rfl
@[simp] theorem winEvictBelow_rxCfg (b : Nat) : (winEvictBelow b s).rxCfg = s.rxCfg := rfl
@[simp] theorem winEvictBelow_src (b : Nat) : (winEvictBelow b s).src = s.src := rfl
@[simp] theorem winEvictBelow_out (b : Nat) : (winEvictBelow b s).out = s.out := rfl
@[simp] theorem winEvictBelow_pktOut (b : Nat) : (winEvictBelow b s).pktOut = s.pktOut := rfl
@[simp] theorem winEvictBelow_ackOut (b : Nat) : (winEvictBelow b s).ackOut = s.ackOut := rfl
@[simp] theorem winEvictBelow_forward (b : Nat) : (winEvictBelow b s).forward = s.forward := rfl
@[simp] theorem winEvictBelow_reverse (b : Nat) : (winEvictBelow b s).reverse = s.reverse := rfl
@[simp] theorem winEvictBelow_inputs (b : Nat) : (winEvictBelow b s).inputs = s.inputs := rfl
@[simp] theorem winEvictBelow_last (b : Nat) : (winEvictBelow b s).last = s.last := rfl
@[simp] theorem winEvictBelow_freeCount (b : Nat) : (winEvictBelow b s).freeCount = s.freeCount := rfl

@[simp] theorem bufPut_build (k : Int) (v : Bytes) : (bufPut k v s).build = s.build := rfl
@[simp] theorem bufPut_tx (k : Int) (v : Bytes) : (bufPut k v s).tx = s.tx := rfl
@[simp] theorem bufPut_txPar (k : Int) (v : Bytes) : (bufPut k v s).txPar = s.txPar := rfl
@[simp] theorem bufPut_txCfg (k : Int) (v : Bytes) : (bufPut k v s).txCfg = s.txCfg := rfl
@[simp] theorem bufPut_rx (k : Int) (v : Bytes) : (bufPut k v s).rx = { s.rx with buf := Store.put k v s.rx.buf } := rfl
@[simp] theorem bufPut_rxPar (k : Int) (v : Bytes) : (bufPut k v s).rxPar = s.rxPar := rfl
@[simp] theorem bufPut_rxCfg (k : Int) (v : Bytes) : (bufPut k v s).rxCfg = s.rxCfg := rfl
@[simp] theorem bufPut_src (k : Int) (v : Bytes) : (bufPut k v s).src = s.src := rfl
@[simp] theorem bufPut_out (k : Int) (v : Bytes) : (bufPut k v s).out = s.out := rfl
@[simp] theorem bufPut_pktOut (k : Int) (v : Bytes) : (bufPut k v s).pktOut = s.pktOut := rfl
@[simp] theorem bufPut_ackOut (k : Int) (v : Bytes) : (bufPut k v s).ackOut = s.ackOut := rfl
@[simp] theorem bufPut_forward (k : Int) (v : Bytes) : (bufPut k v s).forward = s.forward := rfl
@[simp] theorem bufPut_reverse (k : Int) (v : Bytes) : (bufPut k v s).reverse = s.reverse := rfl
@[simp] theorem bufPut_inputs (k : Int) (v : Bytes) : (bufPut k v s).inputs = s.inputs := rfl
@[simp] theorem bufPut_last (k : Int) (v : Bytes) : (bufPut k v s).last = s.last := rfl
@[simp] theorem bufPut_freeCount (k : Int) (v : Bytes) : (bufPut k v s).freeCount = s.freeCount := rfl

@[simp] theorem raiseTx_build (f : FatalFault) : (raise .tx f s).build = s.build := rfl
@[simp] theorem raiseTx_tx (f : FatalFault) :
    (raise .tx f s).tx = { s.tx with fault := some f, phase := .fault, timerArmed := false, timerCnt := 0 } := rfl
@[simp] theorem raiseTx_txPar (f : FatalFault) : (raise .tx f s).txPar = s.txPar := rfl
@[simp] theorem raiseTx_txCfg (f : FatalFault) : (raise .tx f s).txCfg = s.txCfg := rfl
@[simp] theorem raiseTx_rx (f : FatalFault) : (raise .tx f s).rx = s.rx := rfl
@[simp] theorem raiseTx_rxPar (f : FatalFault) : (raise .tx f s).rxPar = s.rxPar := rfl
@[simp] theorem raiseTx_rxCfg (f : FatalFault) : (raise .tx f s).rxCfg = s.rxCfg := rfl
@[simp] theorem raiseTx_src (f : FatalFault) : (raise .tx f s).src = s.src := rfl
@[simp] theorem raiseTx_out (f : FatalFault) : (raise .tx f s).out = s.out := rfl
@[simp] theorem raiseTx_pktOut (f : FatalFault) : (raise .tx f s).pktOut = s.pktOut := rfl
@[simp] theorem raiseTx_ackOut (f : FatalFault) : (raise .tx f s).ackOut = s.ackOut := rfl
@[simp] theorem raiseTx_forward (f : FatalFault) : (raise .tx f s).forward = s.forward := rfl
@[simp] theorem raiseTx_reverse (f : FatalFault) : (raise .tx f s).reverse = s.reverse := rfl
@[simp] theorem raiseTx_inputs (f : FatalFault) : (raise .tx f s).inputs = s.inputs := rfl
@[simp] theorem raiseTx_last (f : FatalFault) : (raise .tx f s).last = { s.last with labels := [.fault f] } := rfl
@[simp] theorem raiseTx_freeCount (f : FatalFault) : (raise .tx f s).freeCount = s.freeCount := rfl

@[simp] theorem raiseRx_build (f : FatalFault) : (raise .rx f s).build = s.build := rfl
@[simp] theorem raiseRx_tx (f : FatalFault) : (raise .rx f s).tx = s.tx := rfl
@[simp] theorem raiseRx_txPar (f : FatalFault) : (raise .rx f s).txPar = s.txPar := rfl
@[simp] theorem raiseRx_txCfg (f : FatalFault) : (raise .rx f s).txCfg = s.txCfg := rfl
@[simp] theorem raiseRx_rx (f : FatalFault) : (raise .rx f s).rx = { s.rx with fault := some f, phase := .fault } := rfl
@[simp] theorem raiseRx_rxPar (f : FatalFault) : (raise .rx f s).rxPar = s.rxPar := rfl
@[simp] theorem raiseRx_rxCfg (f : FatalFault) : (raise .rx f s).rxCfg = s.rxCfg := rfl
@[simp] theorem raiseRx_src (f : FatalFault) : (raise .rx f s).src = s.src := rfl
@[simp] theorem raiseRx_out (f : FatalFault) : (raise .rx f s).out = s.out := rfl
@[simp] theorem raiseRx_pktOut (f : FatalFault) : (raise .rx f s).pktOut = s.pktOut := rfl
@[simp] theorem raiseRx_ackOut (f : FatalFault) : (raise .rx f s).ackOut = s.ackOut := rfl
@[simp] theorem raiseRx_forward (f : FatalFault) : (raise .rx f s).forward = s.forward := rfl
@[simp] theorem raiseRx_reverse (f : FatalFault) : (raise .rx f s).reverse = s.reverse := rfl
@[simp] theorem raiseRx_inputs (f : FatalFault) : (raise .rx f s).inputs = s.inputs := rfl
@[simp] theorem raiseRx_last (f : FatalFault) : (raise .rx f s).last = { s.last with labels := [.fault f] } := rfl
@[simp] theorem raiseRx_freeCount (f : FatalFault) : (raise .rx f s).freeCount = s.freeCount := rfl

@[simp] theorem resetTx_build : (resetEngine .tx s).build = s.build := rfl
@[simp] theorem resetTx_tx : (resetEngine .tx s).tx = TxState.init := rfl
@[simp] theorem resetTx_txPar : (resetEngine .tx s).txPar = s.txPar := rfl
@[simp] theorem resetTx_txCfg : (resetEngine .tx s).txCfg = s.txCfg := rfl
@[simp] theorem resetTx_rx : (resetEngine .tx s).rx = s.rx := rfl
@[simp] theorem resetTx_rxPar : (resetEngine .tx s).rxPar = s.rxPar := rfl
@[simp] theorem resetTx_rxCfg : (resetEngine .tx s).rxCfg = s.rxCfg := rfl
@[simp] theorem resetTx_src : (resetEngine .tx s).src = s.src := rfl
@[simp] theorem resetTx_out : (resetEngine .tx s).out = s.out := rfl
@[simp] theorem resetTx_pktOut : (resetEngine .tx s).pktOut = s.pktOut := rfl
@[simp] theorem resetTx_ackOut : (resetEngine .tx s).ackOut = s.ackOut := rfl
@[simp] theorem resetTx_forward : (resetEngine .tx s).forward = s.forward := rfl
@[simp] theorem resetTx_reverse : (resetEngine .tx s).reverse = s.reverse := rfl
@[simp] theorem resetTx_inputs : (resetEngine .tx s).inputs = s.inputs := rfl
@[simp] theorem resetTx_last : (resetEngine .tx s).last = { s.last with labels := [.reset] } := rfl
@[simp] theorem resetTx_freeCount : (resetEngine .tx s).freeCount = s.freeCount := rfl

@[simp] theorem resetRx_build : (resetEngine .rx s).build = s.build := rfl
@[simp] theorem resetRx_tx : (resetEngine .rx s).tx = s.tx := rfl
@[simp] theorem resetRx_txPar : (resetEngine .rx s).txPar = s.txPar := rfl
@[simp] theorem resetRx_txCfg : (resetEngine .rx s).txCfg = s.txCfg := rfl
@[simp] theorem resetRx_rx : (resetEngine .rx s).rx = RxState.init := rfl
@[simp] theorem resetRx_rxPar : (resetEngine .rx s).rxPar = s.rxPar := rfl
@[simp] theorem resetRx_rxCfg : (resetEngine .rx s).rxCfg = s.rxCfg := rfl
@[simp] theorem resetRx_src : (resetEngine .rx s).src = s.src := rfl
@[simp] theorem resetRx_out : (resetEngine .rx s).out = s.out := rfl
@[simp] theorem resetRx_pktOut : (resetEngine .rx s).pktOut = s.pktOut := rfl
@[simp] theorem resetRx_ackOut : (resetEngine .rx s).ackOut = s.ackOut := rfl
@[simp] theorem resetRx_forward : (resetEngine .rx s).forward = s.forward := rfl
@[simp] theorem resetRx_reverse : (resetEngine .rx s).reverse = s.reverse := rfl
@[simp] theorem resetRx_inputs : (resetEngine .rx s).inputs = s.inputs := rfl
@[simp] theorem resetRx_last : (resetEngine .rx s).last = { s.last with labels := [.reset] } := rfl
@[simp] theorem resetRx_freeCount : (resetEngine .rx s).freeCount = s.freeCount := rfl

@[simp] theorem loadTimer_build : (loadTimer s).build = s.build := rfl
@[simp] theorem loadTimer_tx : (loadTimer s).tx = { s.tx with timerCnt := s.txPar.timeoutTicks } := rfl
@[simp] theorem loadTimer_txPar : (loadTimer s).txPar = s.txPar := rfl
@[simp] theorem loadTimer_txCfg : (loadTimer s).txCfg = s.txCfg := rfl
@[simp] theorem loadTimer_rx : (loadTimer s).rx = s.rx := rfl
@[simp] theorem loadTimer_rxPar : (loadTimer s).rxPar = s.rxPar := rfl
@[simp] theorem loadTimer_rxCfg : (loadTimer s).rxCfg = s.rxCfg := rfl
@[simp] theorem loadTimer_src : (loadTimer s).src = s.src := rfl
@[simp] theorem loadTimer_out : (loadTimer s).out = s.out := rfl
@[simp] theorem loadTimer_pktOut : (loadTimer s).pktOut = s.pktOut := rfl
@[simp] theorem loadTimer_ackOut : (loadTimer s).ackOut = s.ackOut := rfl
@[simp] theorem loadTimer_forward : (loadTimer s).forward = s.forward := rfl
@[simp] theorem loadTimer_reverse : (loadTimer s).reverse = s.reverse := rfl
@[simp] theorem loadTimer_inputs : (loadTimer s).inputs = s.inputs := rfl
@[simp] theorem loadTimer_last : (loadTimer s).last = s.last := rfl
@[simp] theorem loadTimer_freeCount : (loadTimer s).freeCount = s.freeCount := rfl

@[simp] theorem endSession_build (ph : TxPhase) : (endSession ph s).build = s.build := rfl
@[simp] theorem endSession_tx (ph : TxPhase) :
    (endSession ph s).tx = { s.tx with phase := ph, timerArmed := false, timerCnt := 0 } := rfl
@[simp] theorem endSession_txPar (ph : TxPhase) : (endSession ph s).txPar = s.txPar := rfl
@[simp] theorem endSession_txCfg (ph : TxPhase) : (endSession ph s).txCfg = s.txCfg := rfl
@[simp] theorem endSession_rx (ph : TxPhase) : (endSession ph s).rx = s.rx := rfl
@[simp] theorem endSession_rxPar (ph : TxPhase) : (endSession ph s).rxPar = s.rxPar := rfl
@[simp] theorem endSession_rxCfg (ph : TxPhase) : (endSession ph s).rxCfg = s.rxCfg := rfl
@[simp] theorem endSession_src (ph : TxPhase) : (endSession ph s).src = s.src := rfl
@[simp] theorem endSession_out (ph : TxPhase) : (endSession ph s).out = s.out := rfl
@[simp] theorem endSession_pktOut (ph : TxPhase) : (endSession ph s).pktOut = s.pktOut := rfl
@[simp] theorem endSession_ackOut (ph : TxPhase) : (endSession ph s).ackOut = s.ackOut := rfl
@[simp] theorem endSession_forward (ph : TxPhase) : (endSession ph s).forward = s.forward := rfl
@[simp] theorem endSession_reverse (ph : TxPhase) : (endSession ph s).reverse = s.reverse := rfl
@[simp] theorem endSession_inputs (ph : TxPhase) : (endSession ph s).inputs = s.inputs := rfl
@[simp] theorem endSession_last (ph : TxPhase) : (endSession ph s).last = s.last := rfl
@[simp] theorem endSession_freeCount (ph : TxPhase) : (endSession ph s).freeCount = s.freeCount := rfl

@[simp] theorem takePkt_build (d : Datagram) : (takeDatagram .pktIn d s).build = s.build := rfl
@[simp] theorem takePkt_tx (d : Datagram) : (takeDatagram .pktIn d s).tx = s.tx := rfl
@[simp] theorem takePkt_txPar (d : Datagram) : (takeDatagram .pktIn d s).txPar = s.txPar := rfl
@[simp] theorem takePkt_txCfg (d : Datagram) : (takeDatagram .pktIn d s).txCfg = s.txCfg := rfl
@[simp] theorem takePkt_rx (d : Datagram) : (takeDatagram .pktIn d s).rx = s.rx := rfl
@[simp] theorem takePkt_rxPar (d : Datagram) : (takeDatagram .pktIn d s).rxPar = s.rxPar := rfl
@[simp] theorem takePkt_rxCfg (d : Datagram) : (takeDatagram .pktIn d s).rxCfg = s.rxCfg := rfl
@[simp] theorem takePkt_src (d : Datagram) : (takeDatagram .pktIn d s).src = s.src := rfl
@[simp] theorem takePkt_out (d : Datagram) : (takeDatagram .pktIn d s).out = s.out := rfl
@[simp] theorem takePkt_pktOut (d : Datagram) : (takeDatagram .pktIn d s).pktOut = s.pktOut := rfl
@[simp] theorem takePkt_ackOut (d : Datagram) : (takeDatagram .pktIn d s).ackOut = s.ackOut := rfl
@[simp] theorem takePkt_forward (d : Datagram) : (takeDatagram .pktIn d s).forward = Channel.remove d s.forward := rfl
@[simp] theorem takePkt_reverse (d : Datagram) : (takeDatagram .pktIn d s).reverse = s.reverse := rfl
@[simp] theorem takePkt_inputs (d : Datagram) : (takeDatagram .pktIn d s).inputs = s.inputs := rfl
@[simp] theorem takePkt_last (d : Datagram) : (takeDatagram .pktIn d s).last = s.last := rfl
@[simp] theorem takePkt_freeCount (d : Datagram) : (takeDatagram .pktIn d s).freeCount = s.freeCount := rfl

@[simp] theorem takeAck_build (d : Datagram) : (takeDatagram .ackIn d s).build = s.build := rfl
@[simp] theorem takeAck_tx (d : Datagram) : (takeDatagram .ackIn d s).tx = s.tx := rfl
@[simp] theorem takeAck_txPar (d : Datagram) : (takeDatagram .ackIn d s).txPar = s.txPar := rfl
@[simp] theorem takeAck_txCfg (d : Datagram) : (takeDatagram .ackIn d s).txCfg = s.txCfg := rfl
@[simp] theorem takeAck_rx (d : Datagram) : (takeDatagram .ackIn d s).rx = s.rx := rfl
@[simp] theorem takeAck_rxPar (d : Datagram) : (takeDatagram .ackIn d s).rxPar = s.rxPar := rfl
@[simp] theorem takeAck_rxCfg (d : Datagram) : (takeDatagram .ackIn d s).rxCfg = s.rxCfg := rfl
@[simp] theorem takeAck_src (d : Datagram) : (takeDatagram .ackIn d s).src = s.src := rfl
@[simp] theorem takeAck_out (d : Datagram) : (takeDatagram .ackIn d s).out = s.out := rfl
@[simp] theorem takeAck_pktOut (d : Datagram) : (takeDatagram .ackIn d s).pktOut = s.pktOut := rfl
@[simp] theorem takeAck_ackOut (d : Datagram) : (takeDatagram .ackIn d s).ackOut = s.ackOut := rfl
@[simp] theorem takeAck_forward (d : Datagram) : (takeDatagram .ackIn d s).forward = s.forward := rfl
@[simp] theorem takeAck_reverse (d : Datagram) : (takeDatagram .ackIn d s).reverse = Channel.remove d s.reverse := rfl
@[simp] theorem takeAck_inputs (d : Datagram) : (takeDatagram .ackIn d s).inputs = s.inputs := rfl
@[simp] theorem takeAck_last (d : Datagram) : (takeDatagram .ackIn d s).last = s.last := rfl
@[simp] theorem takeAck_freeCount (d : Datagram) : (takeDatagram .ackIn d s).freeCount = s.freeCount := rfl

@[simp] theorem sendNew_build (p : Packet) : (sendNew p s).build = s.build := rfl
@[simp] theorem sendNew_tx (p : Packet) :
    (sendNew p s).tx = { s.tx with window := Store.put p.seq p s.tx.window, nextSeqNum := s.tx.nextSeqNum + 1 } := rfl
@[simp] theorem sendNew_txPar (p : Packet) : (sendNew p s).txPar = s.txPar := rfl
@[simp] theorem sendNew_txCfg (p : Packet) : (sendNew p s).txCfg = s.txCfg := rfl
@[simp] theorem sendNew_rx (p : Packet) : (sendNew p s).rx = s.rx := rfl
@[simp] theorem sendNew_rxPar (p : Packet) : (sendNew p s).rxPar = s.rxPar := rfl
@[simp] theorem sendNew_rxCfg (p : Packet) : (sendNew p s).rxCfg = s.rxCfg := rfl
@[simp] theorem sendNew_src (p : Packet) : (sendNew p s).src = s.src := rfl
@[simp] theorem sendNew_out (p : Packet) : (sendNew p s).out = s.out := rfl
@[simp] theorem sendNew_pktOut (p : Packet) :
    (sendNew p s).pktOut = s.pktOut ++ [firstTransmission s.txPar.corruptSet p] := rfl
@[simp] theorem sendNew_ackOut (p : Packet) : (sendNew p s).ackOut = s.ackOut := rfl
@[simp] theorem sendNew_forward (p : Packet) :
    (sendNew p s).forward = Channel.add (firstTransmission s.txPar.corruptSet p) s.forward := rfl
@[simp] theorem sendNew_reverse (p : Packet) : (sendNew p s).reverse = s.reverse := rfl
@[simp] theorem sendNew_inputs (p : Packet) : (sendNew p s).inputs = s.inputs := rfl
@[simp] theorem sendNew_last (p : Packet) :
    (sendNew p s).last = { s.last with effects := s.last.effects ++ [.pktOut (firstTransmission s.txPar.corruptSet p)] } := rfl
@[simp] theorem sendNew_freeCount (p : Packet) : (sendNew p s).freeCount = s.freeCount := rfl

/-! ## Enabling -/

/-- An enabled operation runs on a new trace line (R203). -/
theorem whenEnabled_of_enabled {b : Bool} (h : b = true) (f : State → State) (s : State) :
    whenEnabled b f s = .next (f (clearReply s)) := by
  simp [whenEnabled, h]

/-- One that is not enabled has no transition (R203). -/
theorem whenEnabled_of_not {b : Bool} (h : b = false) (f : State → State) (s : State) :
    whenEnabled b f s = .fault .notEnabled := by
  simp [whenEnabled, h]

end Sys2Proof.Machine
end

