-- ==== Sys2Proof/Laws/Store.lean ====
section
/-! SUPPORT. The laws of the stores (R68 to R71): reading after writing, canonical form, and the shapes the engines
use. -/

namespace Sys2Proof.Machine

variable {α : Type}

theorem Store.wf_nil : Store.WF ([] : Store α) := List.Pairwise.nil

theorem Store.mem_put {k : Int} {v : α} {e : Int × α} {m : Store α} (h : e ∈ Store.put k v m) :
    e = (k, v) ∨ e ∈ m := by
  induction m with
  | nil => simpa [Store.put] using h
  | cons f m ih =>
    simp only [Store.put] at h
    split at h
    · simpa using h
    · split at h
      · rcases List.mem_cons.1 h with h | h
        · exact .inl h
        · exact .inr (List.mem_cons_of_mem _ h)
      · rcases List.mem_cons.1 h with h | h
        · exact .inr (h ▸ List.mem_cons_self)
        · rcases ih h with h | h
          · exact .inl h
          · exact .inr (List.mem_cons_of_mem _ h)

theorem Store.put_wf {k : Int} {v : α} {m : Store α} (h : Store.WF m) : Store.WF (Store.put k v m) := by
  induction m with
  | nil => simp [Store.put, Store.WF]
  | cons f m ih =>
    have hf := List.pairwise_cons.1 h
    simp only [Store.put]
    split
    · refine List.pairwise_cons.2 ⟨fun e he => ?_, h⟩
      rcases List.mem_cons.1 he with rfl | he
      · assumption
      · have := hf.1 e he
        simp only at *
        omega
    · split
      · rename_i hk
        exact List.pairwise_cons.2 ⟨fun e he => by simpa [hk] using hf.1 e he, hf.2⟩
      · refine List.pairwise_cons.2 ⟨fun e he => ?_, ih hf.2⟩
        rcases Store.mem_put he with rfl | he
        · simp only; omega
        · exact hf.1 e he

theorem Store.erase_wf {k : Int} {m : Store α} (h : Store.WF m) : Store.WF (Store.erase k m) :=
  List.Pairwise.filter _ h

theorem Store.keepFrom_wf {b : Int} {m : Store α} (h : Store.WF m) : Store.WF (Store.keepFrom b m) :=
  List.Pairwise.filter _ h

theorem Store.mem_erase {k : Int} {e : Int × α} {m : Store α} : e ∈ Store.erase k m ↔ e ∈ m ∧ e.1 ≠ k := by
  simp [Store.erase]

theorem Store.mem_keepFrom {b : Int} {e : Int × α} {m : Store α} : e ∈ Store.keepFrom b m ↔ e ∈ m ∧ b ≤ e.1 := by
  simp [Store.keepFrom]

theorem Store.get_put_same {k : Int} {v : α} {m : Store α} : Store.get k (Store.put k v m) = some v := by
  induction m with
  | nil => simp [Store.put, Store.get]
  | cons f m ih =>
    simp only [Store.put]
    split
    · simp [Store.get]
    · split
      · simp [Store.get]
      · rename_i h
        simp [Store.get, ih, Ne.symm h]

theorem Store.get_put_other {k j : Int} {v : α} {m : Store α} (h : j ≠ k) :
    Store.get j (Store.put k v m) = Store.get j m := by
  induction m with
  | nil => simp [Store.put, Store.get, h.symm]
  | cons f m ih =>
    simp only [Store.put]
    split
    · simp [Store.get, h.symm]
    · split
      · rename_i h1
        simp [Store.get, h.symm, ← h1]
      · simp [Store.get, ih]

theorem Store.get_erase_same {k : Int} {m : Store α} : Store.get k (Store.erase k m) = none := by
  induction m with
  | nil => rfl
  | cons f m ih =>
    simp only [Store.erase, List.filter] at *
    split
    · rename_i h
      simp [Store.get, ih, bne_iff_ne.1 h]
    · exact ih

theorem Store.get_erase_other {k j : Int} {m : Store α} (h : j ≠ k) :
    Store.get j (Store.erase k m) = Store.get j m := by
  induction m with
  | nil => rfl
  | cons f m ih =>
    simp only [Store.erase, List.filter] at *
    split
    · simp [Store.get, ih]
    · rename_i hf
      have hf : f.1 = k := by simpa using hf
      simp [Store.get, ih, hf, h.symm]

/-- A bound key has an entry. -/
theorem Store.mem_of_get {k : Int} {v : α} {m : Store α} (h : Store.get k m = some v) : (k, v) ∈ m := by
  induction m with
  | nil => simp [Store.get] at h
  | cons f m ih =>
    simp only [Store.get] at h
    split at h
    · rename_i hk
      cases h
      simp [← hk]
    · exact List.mem_cons_of_mem _ (ih h)

/-- A key with an entry is bound. -/
theorem Store.get_ne_none_of_mem {k : Int} {v : α} {m : Store α} (h : (k, v) ∈ m) : Store.get k m ≠ none := by
  induction m with
  | nil => cases h
  | cons e m ih =>
    simp only [Store.get]
    split
    · simp
    · rename_i hne
      rcases List.mem_cons.1 h with rfl | h
      · exact absurd rfl hne
      · exact ih h

/-- In canonical form an entry is what its key is bound to. -/
theorem Store.get_of_mem {e : Int × α} {m : Store α} (hm : Store.WF m) (h : e ∈ m) : Store.get e.1 m = some e.2 := by
  induction m with
  | nil => simp at h
  | cons f m ih =>
    have hf := List.pairwise_cons.1 hm
    rcases List.mem_cons.1 h with rfl | h
    · simp [Store.get]
    · have := hf.1 e h
      simp [Store.get, ih hf.2 h, show f.1 ≠ e.1 by omega]

/-- In canonical form the entries are exactly the bindings. -/
theorem Store.mem_iff_get {k : Int} {v : α} {m : Store α} (hm : Store.WF m) : (k, v) ∈ m ↔ Store.get k m = some v :=
  ⟨Store.get_of_mem hm, Store.mem_of_get⟩

/-- The entries after a write, in canonical form: the new binding, and every entry of another key (R68, R70). -/
theorem Store.mem_put_iff {k j : Int} {v w : α} {m : Store α} (hm : Store.WF m) :
    (j, w) ∈ Store.put k v m ↔ if j = k then w = v else (j, w) ∈ m := by
  rw [Store.mem_iff_get (Store.put_wf hm)]
  split
  · rename_i h
    rw [h, Store.get_put_same, Option.some.injEq, eq_comm]
  · rename_i h
    rw [Store.get_put_other h, Store.mem_iff_get hm]

/-- A key above every other is put at the end. -/
theorem Store.put_last {k : Int} {v : α} {m : Store α} (h : ∀ e ∈ m, e.1 < k) : Store.put k v m = m ++ [(k, v)] := by
  induction m with
  | nil => rfl
  | cons f m ih =>
    have hf := h f List.mem_cons_self
    simp only [Store.put]
    rw [if_neg (by omega), if_neg (by omega), ih fun e he => h e (List.mem_cons_of_mem _ he)]
    rfl

theorem Store.length_put_le {k : Int} {v : α} {m : Store α} : (Store.put k v m).length ≤ m.length + 1 := by
  induction m with
  | nil => simp [Store.put]
  | cons f m ih =>
    simp only [Store.put]
    split
    · simp
    · split
      · simp
      · simp only [List.length_cons]
        omega

theorem Store.length_erase_lt {k : Int} {v : α} {m : Store α} (h : Store.get k m = some v) :
    (Store.erase k m).length < m.length := by
  have hm := Store.mem_of_get h
  unfold Store.erase
  exact List.length_filter_lt_length_iff_exists.2 ⟨_, hm, by simp⟩

/-- Evicting below the first key keeps everything. -/
theorem Store.keepFrom_eq_self {b : Int} {m : Store α} (h : ∀ e ∈ m, b ≤ e.1) : Store.keepFrom b m = m := by
  simpa [Store.keepFrom, List.filter_eq_self] using h

end Sys2Proof.Machine
end

