-- ==== Sys2Proof/Laws/Drain.lean ====
section
/-! SUPPORT. What the drain of ACCEPT_AND_DRAIN can do (R176), said once. -/

namespace Sys2Proof.Machine

theorem drainedKey_iff {lfr k : Int} {n : Nat} : drainedKey lfr n k = true ↔ lfr < k ∧ k ≤ lfr + n := by
  simp [drainedKey]

theorem acksAfter_succ (lfr : Int) (n : Nat) :
    acksAfter lfr (n + 1) = encAck (lfr + 1) :: acksAfter (lfr + 1) n := by
  simp only [acksAfter, List.range_succ_eq_map, List.map_cons, List.map_map]
  congr 1
  · simp
  · refine List.map_congr_left fun i _ => ?_
    simp only [Function.comp_apply, Nat.succ_eq_add_one, Int.natCast_add, Int.natCast_one]
    congr 1
    omega

/-- One delivery, written out. -/
theorem deliverNext_eq (s : State) :
    deliverNext s = emit .ackOut (encAck (s.rx.lfr + 1)) (sinkWrite ((Store.get (s.rx.lfr + 1) s.rx.buf).getD [])
      { s with rx := { s.rx with lfr := s.rx.lfr + 1, buf := Store.erase (s.rx.lfr + 1) s.rx.buf } }) := rfl

theorem drainFrom_zero (s : State) : DrainFrom s [] s := by
  refine ⟨⟨rfl, rfl, rfl, rfl, rfl, rfl, rfl, rfl, rfl⟩, rfl, rfl, rfl, rfl, rfl, ?_, ?_, ?_, ?_, ?_, ?_, ?_⟩
  · simp
  · simp
  · refine (List.filter_eq_self.2 fun e _ => ?_).symm
    rw [Bool.not_eq_true', ← Bool.not_eq_true, drainedKey_iff]
    simp only [List.length_nil]
    omega
  · simp
  · simp [acksAfter]
  · simp [acksAfter]
  · simp [drainEffects]

theorem DrainFrom.cons {s t : State} {p : Bytes} {ps : List Bytes}
    (hp : Store.get (s.rx.lfr + 1) s.rx.buf = some p) (h : DrainFrom (deliverNext s) ps t) :
    DrainFrom s (p :: ps) t := by
  rw [deliverNext_eq, hp] at h
  refine ⟨⟨h.frame.build, h.frame.tx, h.frame.txPar, h.frame.txCfg, h.frame.rxCfg, h.frame.src, h.frame.pktOut,
    h.frame.inputs, h.frame.freeCount⟩, h.rxPar, h.forward, h.phase, h.fault, h.laf, ?_, ?_, ?_, ?_, ?_, ?_, ?_⟩
  · rw [h.lfr]
    simp only [emitAckOut_rx, sinkWrite_rx, List.length_cons]
    omega
  · intro i q hi
    rcases i with _ | i
    · simp only [List.getElem?_cons_zero, Option.some.injEq] at hi
      simpa [hi] using hp
    · have := h.payloads i q (by simpa using hi)
      simp only [emitAckOut_rx, sinkWrite_rx] at this
      rw [Store.get_erase_other (by omega)] at this
      rw [← this]
      congr 1
      omega
  · rw [h.buf]
    simp only [emitAckOut_rx, sinkWrite_rx, Store.erase, List.filter_filter, List.length_cons]
    refine List.filter_congr fun e _ => ?_
    rw [Bool.eq_iff_iff, Bool.and_eq_true, Bool.not_eq_true', Bool.not_eq_true', ← Bool.not_eq_true,
      ← Bool.not_eq_true, drainedKey_iff, drainedKey_iff, bne_iff_ne]
    omega
  · rw [h.out]
    simp
  · rw [h.ackOut]
    simp [acksAfter_succ]
  · refine h.reverse.trans ?_
    simp only [emitAckOut_reverse, sinkWrite_reverse, emitAckOut_rx, sinkWrite_rx, List.length_cons, acksAfter_succ]
    exact ((Channel.add_perm _ _).append_right _).trans List.perm_middle.symm
  · rw [h.last]
    simp [drainEffects]

theorem drainLoop_spec (fuel : Nat) (s : State) (hf : s.rx.buf.length ≤ fuel) :
    ∃ ps, (drainLoop fuel s).1 = ps.length ∧ DrainFrom s ps (drainLoop fuel s).2 ∧
      bufHas ((drainLoop fuel s).2.rx.lfr + 1) (drainLoop fuel s).2 = false := by
  induction fuel generalizing s with
  | zero =>
    refine ⟨[], rfl, drainFrom_zero s, ?_⟩
    have : s.rx.buf = [] := List.length_eq_zero_iff.1 (by omega)
    simp [drainLoop, bufHas, this, Store.get]
  | succ fuel ih =>
    simp only [drainLoop]
    split
    · rename_i hh
      obtain ⟨p, hp⟩ := Option.isSome_iff_exists.1 hh
      have hlt := Store.length_erase_lt hp
      obtain ⟨ps, h1, h2, h3⟩ := ih (deliverNext s) (by rw [deliverNext_eq]; simp only [emitAckOut_rx, sinkWrite_rx]; omega)
      exact ⟨p :: ps, by simp [h1], h2.cons hp, h3⟩
    · rename_i hh
      exact ⟨[], rfl, drainFrom_zero s, by simpa using hh⟩

/-- What the drain can do (R176): it delivers the payloads buffered under `LFR + 1, LFR + 2, …` as far as they go. -/
theorem drain_spec (s : State) :
    ∃ ps, (drain s).1 = ps.length ∧ DrainFrom s ps (drain s).2 ∧ bufHas ((drain s).2.rx.lfr + 1) (drain s).2 = false :=
  drainLoop_spec _ s (Nat.le_refl _)

/-- The drain stops only where the next frame is missing. -/
theorem drain_exit (s : State) : bufHas ((drain s).2.rx.lfr + 1) (drain s).2 = false := by
  obtain ⟨-, -, -, h⟩ := drain_spec s
  exact h

/-- With the next frame missing the drain runs zero times. -/
theorem drain_zero {s : State} (h : Store.get (s.rx.lfr + 1) s.rx.buf = none) : drain s = (0, s) := by
  unfold drain
  cases s.rx.buf.length <;> simp [drainLoop, bufHas, h]

end Sys2Proof.Machine
end

