-- ==== Sys2Proof/Laws/Fill.lean ====
section
/-! SUPPORT. What TX_FILL can do (R143), said once: the induction over its iterations, the exit of the loop, and its
effect on a sender that stands at the right place of its stream. -/

namespace Sys2Proof.Machine

@[simp] theorem Flow.andThen_completed (f : State → State) (s : State) : (Flow.completed s).andThen f = f s := rfl

@[simp] theorem Flow.andThen_raised (f : State → State) (s : State) : (Flow.raised s).andThen f = s := rfl

/-! ## The loop -/

/-- The induction over the iterations of TX_FILL: what every iteration keeps holds where it completes, and at the
`raise` otherwise. -/
theorem txFillLoop_induct {P : State → Prop}
    (hP : ∀ u, P u → txFillMore u = true → u.tx.nextSeqNum ≤ seqMax → P (txFillOne u)) (fuel : Nat) {s : State}
    (h : P s) :
    (∃ t, txFillLoop fuel s = .completed t ∧ P t) ∨
    (∃ u, P u ∧ txFillMore u = true ∧ seqMax < u.tx.nextSeqNum ∧
      txFillLoop fuel s = .raised (raise .tx .seqExhausted u)) := by
  induction fuel generalizing s with
  | zero => exact .inl ⟨s, rfl, h⟩
  | succ fuel ih =>
    simp only [txFillLoop]
    split
    · rename_i hm
      split
      · exact .inr ⟨s, h, hm, ‹_›, rfl⟩
      · exact ih (hP s h hm (by omega))
    · exact .inl ⟨s, rfl, h⟩

theorem txFill_induct {P : State → Prop}
    (hP : ∀ u, P u → txFillMore u = true → u.tx.nextSeqNum ≤ seqMax → P (txFillOne u)) {s : State} (h : P s) :
    (∃ t, txFill s = .completed t ∧ P t) ∨
    (∃ u, P u ∧ txFillMore u = true ∧ seqMax < u.tx.nextSeqNum ∧ txFill s = .raised (raise .tx .seqExhausted u)) :=
  txFillLoop_induct hP _ h

/-- One iteration sends a chunk, or, where the read finds none, the end-marker (R143). -/
theorem txFillOne_cases (s : State) :
    (srcChunk s.txPar.pktSize s ≠ [] ∧ txFillOne s = sendNew (mkPkt s.tx.nextSeqNum (srcChunk s.txPar.pktSize s))
      { s with tx := { s.tx with cursor := s.tx.cursor + (srcChunk s.txPar.pktSize s).length } }) ∨
    (srcChunk s.txPar.pktSize s = [] ∧ txFillOne s = sendNew (mkPkt s.tx.nextSeqNum eomPayload)
      { s with tx := { s.tx with eomQueued := true, eomSeq := s.tx.nextSeqNum } }) := by
  by_cases h : srcChunk s.txPar.pktSize s = []
  · exact .inr ⟨h, by simp [txFillOne, srcRead, h]⟩
  · exact .inl ⟨h, by simp [txFillOne, srcRead, h]⟩

theorem srcChunk_length (n : Nat) (s : State) : (srcChunk n s).length = min n (s.src.length - s.tx.cursor) := by
  simp [srcChunk]

/-- With nothing to do TX_FILL runs zero times. -/
theorem txFill_zero {s : State} (h : txFillMore s = false) : txFill s = .completed s := by
  simp [txFill, txFillLoop, h]

/-- The fuel of `txFill` is enough: it stops only where the loop condition fails. -/
theorem txFillLoop_exit (fuel : Nat) {s t : State} (hf : s.tx.eomQueued = true ∨ s.src.length - s.tx.cursor < fuel)
    (h : txFillLoop fuel s = .completed t) : txFillMore t = false := by
  induction fuel generalizing s with
  | zero =>
    cases h
    rcases hf with hf | hf
    · simp [txFillMore, hf]
    · omega
  | succ fuel ih =>
    simp only [txFillLoop] at h
    split at h
    · rename_i hm
      split at h
      · cases h
      · refine ih ?_ h
        rcases txFillOne_cases s with ⟨hc, he⟩ | ⟨-, he⟩
        · have hl := srcChunk_length s.txPar.pktSize s
          have hpos := List.length_pos_iff.2 hc
          have hq : s.tx.eomQueued = false := by
            simpa using (Bool.and_eq_true_iff.1 hm).2
          rcases hf with hf | hf
          · simp [hq] at hf
          · refine .inr ?_
            rw [he]
            simp only [sendNew_src, sendNew_tx]
            omega
        · exact .inl (by simp [he])
    · rename_i hm
      cases h
      simpa using hm

theorem txFill_exit {s t : State} (h : txFill s = .completed t) : txFillMore t = false :=
  txFillLoop_exit _ (.inr (by omega)) h

/-! ## The place in the stream -/

theorem lt_numChunks {len ps k : Nat} (hps : 1 ≤ ps) : k < numChunks len ps ↔ k * ps < len := by
  unfold numChunks
  rw [Nat.lt_div_iff_mul_lt (by omega)]
  constructor <;> intro h <;> rcases len with _ | len <;> simp at * <;> omega

/-- The chunk a read finds is the one the stream has at `nextSeqNum` (R66). -/
theorem srcChunk_eq {s : State} (hps : 1 ≤ s.txPar.pktSize) (h : StreamPos s) (hq : s.tx.eomQueued = false) :
    srcChunk s.txPar.pktSize s =
      if s.tx.nextSeqNum < numChunks s.src.length s.txPar.pktSize then chunkOf s.src s.txPar.pktSize s.tx.nextSeqNum
      else [] := by
  obtain ⟨-, -, hc⟩ := h.streaming hq
  unfold srcChunk chunkOf
  split
  · rename_i hlt
    rw [hc, Nat.min_eq_left (Nat.le_of_lt ((lt_numChunks hps).1 hlt))]
  · rename_i hlt
    have := mt (lt_numChunks hps).2 hlt
    rw [hc, Nat.min_eq_right (by omega)]
    simp

/-- One iteration of TX_FILL sends the packet the stream has at `nextSeqNum`, and the sender stands right again. -/
theorem txFillOne_stream {s : State} (hps : 1 ≤ s.txPar.pktSize) (h : StreamPos s) (hq : s.tx.eomQueued = false) :
    ∃ c q m, txFillOne s = sendNew (streamPacket s.src s.txPar.pktSize s.tx.nextSeqNum)
        { s with tx := { s.tx with cursor := c, eomQueued := q, eomSeq := m } } ∧ StreamPos (txFillOne s) := by
  have hc := srcChunk_eq hps h hq
  obtain ⟨h0, hle, hcur⟩ := h.streaming hq
  have hmul : (s.tx.nextSeqNum + 1) * s.txPar.pktSize = s.tx.nextSeqNum * s.txPar.pktSize + s.txPar.pktSize :=
    Nat.succ_mul _ _
  rcases txFillOne_cases s with ⟨hne, he⟩ | ⟨hnil, he⟩
  · have hlt : s.tx.nextSeqNum < numChunks s.src.length s.txPar.pktSize := by
      by_contra hn
      exact hne (by rw [hc, if_neg hn])
    have hl := srcChunk_length s.txPar.pktSize s
    have hlt' := (lt_numChunks hps).1 hlt
    refine ⟨s.tx.cursor + (srcChunk s.txPar.pktSize s).length, false, 0, ?_, ?_⟩
    · rw [he, streamPacket, if_pos hlt, hc, if_pos hlt, ← hq, ← h0]
    · rw [he]
      refine ⟨fun _ => ⟨by simpa using h0, by simpa using hlt, ?_⟩, fun hq' => by simp [hq] at hq'⟩
      simp only [sendNew_tx, sendNew_src, sendNew_txPar]
      omega
  · have hge : ¬ s.tx.nextSeqNum < numChunks s.src.length s.txPar.pktSize := by
      intro hlt
      have hl := srcChunk_length s.txPar.pktSize s
      have hlt' := (lt_numChunks hps).1 hlt
      rw [hnil] at hl
      simp only [List.length_nil] at hl
      omega
    have hlen := mt (lt_numChunks hps).2 hge
    refine ⟨s.tx.cursor, true, s.tx.nextSeqNum, ?_, ?_⟩
    · rw [he, streamPacket, if_neg hge]
    · rw [he]
      refine ⟨fun hq' => by simp at hq', fun _ => ?_⟩
      simp only [sendNew_tx, sendNew_src, sendNew_txPar]
      omega

/-! ## The effect of TX_FILL -/

theorem newPackets_succ (s : State) (j : Nat) :
    newPackets s (j + 1) = newPackets s j ++ [streamPacket s.src s.txPar.pktSize (s.tx.nextSeqNum + j)] := by
  simp [newPackets, List.range_succ]

theorem newDatagrams_succ (s : State) (j : Nat) :
    newDatagrams s (j + 1) = newDatagrams s j ++
      [firstTransmission s.txPar.corruptSet (streamPacket s.src s.txPar.pktSize (s.tx.nextSeqNum + j))] := by
  simp [newDatagrams, newPackets_succ]

@[simp] theorem streamPacket_seq (src : Bytes) (ps k : Nat) : (streamPacket src ps k).seq = k := rfl

theorem fillFrom_zero {s : State} (h : StreamPos s) : FillFrom s 0 s := by
  constructor <;> first | exact h | simp [newDatagrams, newPackets] | constructor <;> rfl

/-- The keys of the window stay below `nextSeqNum` (R36, R68). -/
theorem FillFrom.window_lt {s t : State} {j : Nat} (h : FillFrom s j t)
    (hs : ∀ e ∈ s.tx.window, e.1 < s.tx.nextSeqNum) : ∀ e ∈ t.tx.window, e.1 < t.tx.nextSeqNum := by
  intro e he
  rw [h.window, List.mem_append] at he
  rw [h.nextSeqNum]
  rcases he with he | he
  · have := hs e he
    omega
  · simp only [newPackets, List.map_map, List.mem_map, List.mem_range, Function.comp_apply] at he
    obtain ⟨i, hi, rfl⟩ := he
    simp only [streamPacket_seq]
    omega

theorem FillFrom.step {s u : State} {j : Nat} (h : FillFrom s j u) (hps : 1 ≤ s.txPar.pktSize)
    (hs : ∀ e ∈ s.tx.window, e.1 < s.tx.nextSeqNum) (hm : txFillMore u = true) (hn : u.tx.nextSeqNum ≤ seqMax) :
    FillFrom s (j + 1) (txFillOne u) := by
  have hq : u.tx.eomQueued = false := by
    simpa using (Bool.and_eq_true_iff.1 hm).2
  obtain ⟨c, q, m, he, hpos⟩ := txFillOne_stream (by rw [h.txPar]; exact hps) h.pos hq
  have hput := Store.put_last (v := streamPacket u.src u.txPar.pktSize u.tx.nextSeqNum) (h.window_lt hs)
  have hlen : u.tx.window.length < u.txPar.sws := by
    simpa using (Bool.and_eq_true_iff.1 hm).1
  refine ⟨?_, ?_, ?_, ?_, ?_, ?_, ?_, ?_, ?_, ?_, ?_, ?_, ?_, ?_, .inr ?_, .inr ?_, hpos⟩ <;> rw [he]
  · exact ⟨h.frame.build, h.frame.txCfg, h.frame.rx, h.frame.rxPar, h.frame.rxCfg, h.frame.src, h.frame.out,
      h.frame.ackOut, h.frame.inputs, h.frame.freeCount⟩
  · exact h.txPar
  · exact h.reverse
  · exact h.phase
  · exact h.fault
  · exact h.base
  · exact h.timerArmed
  · exact h.timerCnt
  · exact h.finalTimeouts
  · simp only [sendNew_tx, h.nextSeqNum]
    omega
  · simp only [sendNew_tx, streamPacket_seq, hput]
    simp only [newPackets_succ, List.map_append, h.window, h.nextSeqNum, h.frame.src, h.txPar, List.append_assoc,
      List.map_cons, List.map_nil, streamPacket_seq]
  · simp only [sendNew_pktOut, newDatagrams_succ, h.pktOut, h.nextSeqNum, h.frame.src, h.txPar, List.append_assoc]
  · simp only [sendNew_forward, newDatagrams_succ, h.nextSeqNum, h.frame.src, h.txPar]
    refine (Channel.add_perm _ _).trans ?_
    refine (h.forward.cons _).trans ?_
    rw [← List.append_assoc]
    exact (List.perm_append_singleton _ _).symm
  · simp only [sendNew_last, newDatagrams_succ, h.last, h.nextSeqNum, h.frame.src, h.txPar, List.append_assoc,
      List.map_append, List.map_cons, List.map_nil]
  · simp only [sendNew_tx, streamPacket_seq, hput, List.length_append, List.length_singleton]
    rw [← h.txPar]
    omega
  · simp only [sendNew_tx]
    unfold seqMax at hn
    omega

/-- What TX_FILL can do (R143): it sends some next packets of the stream and completes with nothing left to do, or
stops at SeqExhausted with those packets sent. -/
theorem txFill_spec {s : State} (hps : 1 ≤ s.txPar.pktSize) (hpos : StreamPos s)
    (hs : ∀ e ∈ s.tx.window, e.1 < s.tx.nextSeqNum) :
    (∃ j t, txFill s = .completed t ∧ FillFrom s j t ∧ txFillMore t = false) ∨
    (∃ j u, FillFrom s j u ∧ txFillMore u = true ∧ seqMax < u.tx.nextSeqNum ∧
      txFill s = .raised (raise .tx .seqExhausted u)) := by
  rcases txFill_induct (P := fun u => ∃ j, FillFrom s j u)
      (fun u ⟨j, hu⟩ hm hn => ⟨j + 1, hu.step hps hs hm hn⟩) ⟨0, fillFrom_zero hpos⟩ with ⟨t, ht, j, hj⟩ | ⟨u, ⟨j, hj⟩, h⟩
  · exact .inl ⟨j, t, ht, hj, txFill_exit ht⟩
  · exact .inr ⟨j, u, hj, h⟩

/-- What every TX_FILL leaves alone, in every state. -/
theorem txFill_frame (s : State) :
    (∃ t, txFill s = .completed t ∧ TxFrame s t ∧ t.txPar = s.txPar ∧ t.reverse = s.reverse ∧
      t.tx.phase = s.tx.phase ∧ t.tx.fault = s.tx.fault ∧ t.tx.base = s.tx.base ∧ s.tx.nextSeqNum ≤ t.tx.nextSeqNum) ∨
    (∃ u, txFill s = .raised (raise .tx .seqExhausted u) ∧ TxFrame s u ∧ u.txPar = s.txPar ∧ u.reverse = s.reverse ∧
      u.tx.base = s.tx.base ∧ s.tx.nextSeqNum ≤ u.tx.nextSeqNum) := by
  rcases txFill_induct (s := s) (P := fun u => TxFrame s u ∧ u.txPar = s.txPar ∧ u.reverse = s.reverse ∧
      u.tx.phase = s.tx.phase ∧ u.tx.fault = s.tx.fault ∧ u.tx.base = s.tx.base ∧ s.tx.nextSeqNum ≤ u.tx.nextSeqNum)
      (fun u ⟨hf, hp, hr, h1, h2, h3, h4⟩ _ _ => by
        rcases txFillOne_cases u with ⟨-, he⟩ | ⟨-, he⟩ <;> rw [he] <;>
        exact ⟨⟨hf.1, hf.2, hf.3, hf.4, hf.5, hf.6, hf.7, hf.8, hf.9, hf.10⟩, hp, hr, h1, h2, h3, Nat.le_succ_of_le h4⟩)
      ⟨⟨rfl, rfl, rfl, rfl, rfl, rfl, rfl, rfl, rfl, rfl⟩, rfl, rfl, rfl, rfl, rfl, Nat.le_refl _⟩ with
    ⟨t, ht, h⟩ | ⟨u, ⟨hf, hp, hr, -, -, h3, h4⟩, -, -, hu⟩
  · exact .inl ⟨t, ht, h⟩
  · exact .inr ⟨u, hu, hf, hp, hr, h3, h4⟩

end Sys2Proof.Machine
end

