-- ==== Sys2Proof/Laws/Receiver.lean ====
section
/-! SUPPORT. What RX_PKT can do (R173 to R177), said once, and the sizes of a store of an interval of keys. -/

namespace Sys2Proof.Machine

/-- What classifying a datagram as acceptable says of it (R96). -/
theorem classify_accept {lfr laf : Int} {d : Datagram} {seq : Int} {payload : Bytes}
    (h : classify lfr laf d = .accept seq payload) :
    decPkt d = some { seq := seq, checksum := crc32 payload, payload := payload } ∧ payload ≠ [0xFF#8] ∧
    lfr < seq ∧ seq ≤ laf := by
  unfold classify at h
  split at h
  · cases h
  · rename_i p hp
    split at h
    · cases h
    · rename_i hv
      split at h
      · cases h
      · rename_i he
        split at h
        · rename_i hw
          injection h with h1 h2
          subst h1 h2
          simp only [Bool.not_eq_true', Bool.not_eq_false, verify_iff] at hv
          rw [isEom_iff] at he
          exact ⟨by rw [hp, hv], he, hw⟩
        · cases h

/-- A store whose keys lie in `(a, b]` has at most `b - a` entries. -/
theorem Store.length_le_of_keys {α : Type} {m : Store α} (hm : Store.WF m) {a b : Int}
    (hk : ∀ e ∈ m, a < e.1 ∧ e.1 ≤ b) (hab : a ≤ b) : (m.length : Int) ≤ b - a := by
  induction m generalizing a with
  | nil => simp only [List.length_nil]; omega
  | cons e m ih =>
    obtain ⟨he, hm'⟩ := List.pairwise_cons.1 hm
    have h0 := hk e (List.mem_cons_self ..)
    have := ih hm' (a := e.1) (fun f hf => ⟨he f hf, (hk f (List.mem_cons_of_mem _ hf)).2⟩) h0.2
    simp only [List.length_cons]
    omega

/-- What ACCEPT_AND_DRAIN can do (R176). -/
theorem acceptAndDrain_spec (seq : Int) (payload : Bytes) (s : State) :
    ∃ ps u, DrainFrom (bufPut seq payload s) ps u ∧
      Store.get (s.rx.lfr + 1 + ps.length) (Store.put seq payload s.rx.buf) = none ∧
      acceptAndDrain seq payload s =
        setLabels [.accept ps.length] { u with rx := { u.rx with laf := u.rx.lfr + u.rxPar.rws } } := by
  obtain ⟨ps, h1, h2, h3⟩ := drain_spec (bufPut seq payload s)
  refine ⟨ps, _, h2, ?_, by simp only [acceptAndDrain, h1]⟩
  have hl : (drain (bufPut seq payload s)).2.rx.lfr = s.rx.lfr + ps.length := h2.lfr
  have hb := h2.buf
  by_contra hne
  obtain ⟨p, hp⟩ := Option.ne_none_iff_exists'.1 hne
  have hmem : (s.rx.lfr + 1 + ps.length, p) ∈ (drain (bufPut seq payload s)).2.rx.buf := by
    rw [hb]
    refine List.mem_filter.2 ⟨Store.mem_of_get hp, ?_⟩
    rw [Bool.not_eq_true', ← Bool.not_eq_true, drainedKey_iff]
    simp only [bufPut_rx]
    omega
  simp only [bufHas, hl] at h3
  have hg : Store.get (s.rx.lfr + ps.length + 1) (drain (bufPut seq payload s)).2.rx.buf ≠ none := by
    intro hn
    rw [show s.rx.lfr + (ps.length : Int) + 1 = s.rx.lfr + 1 + ps.length by omega] at hn
    exact Store.get_ne_none_of_mem hmem hn
  simp [hg] at h3

/-- A data datagram that arrives in `RX_LISTEN`, in any form, is processed (R173). -/
theorem exec_of_dataDatagram {i : Instr} {s : State} {d : Datagram} (h : dataDatagram i = some d)
    (hl : s.rx.phase = .listen) : exec i s = .next (rxArrival d (clearReply s)) := by
  cases i <;> simp only [dataDatagram, Option.some.injEq, reduceCtorEq] at h <;> subst h <;>
    simp [exec, execRxPkt, execPktData, execPktEom, whenEnabled, rxPktEnabled, hl]

end Sys2Proof.Machine
end

