-- ==== Sys2Proof/Laws/Sender.lean ====
section
/-! SUPPORT. What the parts of the TX operations can do (R142, R144, R146), said once each. -/

namespace Sys2Proof.Machine

/-! ## The invariant's parts that TX_FILL needs and keeps -/

theorem TxInv.streamPos {s : State} (h : TxInv s) : StreamPos s := ⟨h.streaming, h.ended⟩

theorem TxInv.keys_lt {s : State} (h : TxInv s) : ∀ e ∈ s.tx.window, e.1 < s.tx.nextSeqNum :=
  fun e he => (h.records e he).2.1

/-- Every record is the packet the stream has at its key (R26, R143). -/
def RecordsOk (s : State) : Prop :=
  ∀ e ∈ s.tx.window, 0 ≤ e.1 ∧ e.1 < s.tx.nextSeqNum ∧ e.2 = streamPacket s.src s.txPar.pktSize e.1.toNat

theorem mem_newPackets {s : State} {j : Nat} {p : Packet} (h : p ∈ newPackets s j) :
    ∃ i, i < j ∧ p = streamPacket s.src s.txPar.pktSize (s.tx.nextSeqNum + i) := by
  simp only [newPackets, List.mem_map, List.mem_range] at h
  obtain ⟨i, hi, rfl⟩ := h
  exact ⟨i, hi, rfl⟩

theorem FillFrom.records {s t : State} {j : Nat} (h : FillFrom s j t) (hr : RecordsOk s) : RecordsOk t := by
  intro e he
  rw [h.window, List.mem_append] at he
  rw [h.nextSeqNum, h.frame.src, h.txPar]
  rcases he with he | he
  · obtain ⟨h1, h2, h3⟩ := hr e he
    exact ⟨h1, by omega, h3⟩
  · simp only [List.mem_map] at he
    obtain ⟨p, hp, rfl⟩ := he
    obtain ⟨i, hi, rfl⟩ := mem_newPackets hp
    simp only [streamPacket_seq, Int.toNat_natCast]
    exact ⟨by omega, by omega, trivial⟩

theorem FillFrom.window_wf {s t : State} {j : Nat} (h : FillFrom s j t) (hw : Store.WF s.tx.window)
    (hk : ∀ e ∈ s.tx.window, e.1 < s.tx.nextSeqNum) : Store.WF t.tx.window := by
  rw [h.window]
  refine List.pairwise_append.2 ⟨hw, ?_, ?_⟩
  · rw [List.pairwise_map, newPackets, List.pairwise_map]
    refine List.Pairwise.imp ?_ List.pairwise_lt_range
    intro a b hab
    simp only [streamPacket_seq]
    omega
  · intro e he f hf
    simp only [List.mem_map] at hf
    obtain ⟨p, hp, rfl⟩ := hf
    obtain ⟨i, -, rfl⟩ := mem_newPackets hp
    have := hk e he
    simp only [streamPacket_seq]
    omega

/-! ## The loop of TX_TIMEOUT -/

/-- The retransmission: every record once more on the port, nothing else (R146). -/
theorem resend_spec (ps : List Packet) (s : State) :
    TxFrame s (resend ps s) ∧ (resend ps s).tx = s.tx ∧ (resend ps s).txPar = s.txPar ∧
    (resend ps s).reverse = s.reverse ∧ (resend ps s).pktOut = s.pktOut ++ ps.map encPkt ∧
    (resend ps s).forward.Perm (s.forward ++ ps.map encPkt) ∧
    (resend ps s).last = { s.last with effects := s.last.effects ++ ps.map fun p => .pktOut (encPkt p) } := by
  induction ps generalizing s with
  | nil => simp [resend]; exact ⟨rfl, rfl, rfl, rfl, rfl, rfl, rfl, rfl, rfl, rfl⟩
  | cons p ps ih =>
    obtain ⟨hf, h1, h2, h3, h4, h5, h6⟩ := ih (emit .pktOut (encPkt p) s)
    refine ⟨⟨hf.1, hf.2, hf.3, hf.4, hf.5, hf.6, hf.7, hf.8, hf.9, hf.10⟩, h1, h2, h3, ?_, ?_, ?_⟩
    · rw [resend, h4]
      simp
    · refine h5.trans ?_
      rw [emitPkt_forward]
      exact ((Channel.add_perm _ _).append_right _).trans List.perm_middle.symm
    · rw [resend, h6]
      simp

/-! ## The advance of TX_ACK -/

/-- The three outcomes of the advance (R144). -/
theorem ackAdvance_cases (d : Datagram) (s : State) :
    (decAck d = none ∧ ackAdvance d s = (.malformedAck, s)) ∨
    (∃ a, decAck d = some a ∧ a < s.tx.base ∧ ackAdvance d s = (.stale, s)) ∨
    (∃ a, decAck d = some a ∧ (s.tx.base : Int) ≤ a ∧ ackAdvance d s = (.advance, { s with
      tx := { s.tx with base := (a + 1).toNat, window := s.tx.window.filter fun e => decide (a + 1 ≤ e.1) } })) := by
  unfold ackAdvance
  cases h : decAck d with
  | none => exact .inl ⟨rfl, rfl⟩
  | some a =>
    by_cases hb : (s.tx.base : Int) ≤ a
    · refine .inr (.inr ⟨a, rfl, hb, ?_⟩)
      have : (((a + 1).toNat : Nat) : Int) = a + 1 := by omega
      simp [hb, winEvictBelow, Store.keepFrom, this]
    · exact .inr (.inl ⟨a, rfl, by omega, by simp [hb]⟩)

/-- The termination test after the advance (R144, R148). -/
theorem txFinished_ackAdvance (d : Datagram) (s : State) :
    txFinished (ackAdvance d s).2 = true ↔ AckEnds d s := by
  rcases ackAdvance_cases d s with ⟨hd, h⟩ | ⟨a, hd, hb, h⟩ | ⟨a, hd, hb, h⟩ <;> rw [h] <;>
    simp only [txFinished, AckEnds, Bool.and_eq_true, decide_eq_true_eq, hd, Option.some.injEq, reduceCtorEq,
      false_and, exists_false, or_false]
  · refine and_congr_right fun _ => ⟨.inl, ?_⟩
    rintro (h | ⟨x, rfl, h1, h2⟩) <;> omega
  · refine and_congr_right fun _ => ⟨fun h => .inr ⟨a, rfl, hb, by omega⟩, ?_⟩
    rintro (h | ⟨x, rfl, h1, h2⟩) <;> omega

/-- The body of TX_ACK, by the advance and the termination test (R144). -/
theorem txAckBody_eq (d : Datagram) (s : State) :
    (AckEnds d s ∧ txAckBody d s =
      setLabels [(ackAdvance d s).1, .done] (endSession .done (ackAdvance d s).2)) ∨
    (¬ AckEnds d s ∧ txAckBody d s =
      (txFill (ackAdvance d s).2).andThen fun t => setLabels [(ackAdvance d s).1] (loadTimer t)) := by
  unfold txAckBody
  by_cases h : AckEnds d s
  · exact .inl ⟨h, if_pos ((txFinished_ackAdvance d s).2 h)⟩
  · exact .inr ⟨h, if_neg (mt (txFinished_ackAdvance d s).1 h)⟩

/-! ## The start -/

theorem txUnlatchedLegal_iff (b : Config.Build) (c : TxCfg) : txUnlatchedLegal b c = true ↔
    (b.startTest = .everyRegister → c.corruptIdx.toNat < b.maxCorrupt ∧ ∀ w ∈ c.corruptList, w.toNat ≤ 2147483647) := by
  unfold txUnlatchedLegal
  split <;> rename_i h
  · simp only [h, Bool.and_eq_true, List.all_eq_true, decide_eq_true_eq, forall_const]
    rfl
  · simp [h]

/-- The test of TX_START is the legality of the registers (R40, R142). -/
theorem txConfigLegal_iff (s : State) :
    txConfigLegal s.build s.txCfg (latchTx s).txPar = true ↔ TxConfigOk s.build s.txCfg := by
  simp only [txConfigLegal, Bool.and_eq_true, decide_eq_true_eq, List.all_eq_true, and_assoc, txUnlatchedLegal_iff]
  simp only [TxConfigOk, latchTx, corruptEntries, List.forall_mem_map]
  refine and_congr_right fun _ => and_congr_right fun _ => and_congr_right fun _ => and_congr_right fun _ =>
    and_congr_right fun _ => and_congr_right fun _ => and_congr_left fun _ => forall₂_congr fun w _ => ?_
  unfold seqMax
  omega

/-! ## The timeout -/

/-- The state TX_TIMEOUT has after its loop. -/
theorem txTimeoutBody_cases (s : State) :
    (TimeoutEnds s ∧ txTimeoutBody s = setLabels [.retransmit s.tx.window.length, .gaveup]
      (endSession .gaveup (countTimeout (resend (winAscending s) s)))) ∨
    (¬ TimeoutEnds s ∧ s.tx.eomQueued = true ∧ s.txPar.finalTimeouts ≠ none ∧
      txTimeoutBody s = waitAgain s.tx.window.length (countTimeout (resend (winAscending s) s))) ∨
    (¬ TimeoutEnds s ∧ ¬ (s.tx.eomQueued = true ∧ s.txPar.finalTimeouts ≠ none) ∧
      txTimeoutBody s = waitAgain s.tx.window.length (resend (winAscending s) s)) := by
  obtain ⟨-, h1, h2, -⟩ := resend_spec (winAscending s) s
  unfold txTimeoutBody TimeoutEnds
  simp only [h1, h2]
  cases hq : s.tx.eomQueued <;> cases hf : s.txPar.finalTimeouts
  · simp
  · simp
  · simp
  · rename_i n
    simp only [countTimeout, h1]
    by_cases hn : n ≤ s.tx.finalTimeouts + 1
    · left
      simp [hn]
    · right; left
      simp [hn]

/-- An ACK datagram that arrives in `TX_WAIT`, in either form, is processed (R144). -/
theorem exec_of_ackDatagram {i : Instr} {s : State} {d : Datagram} (h : ackDatagram i = some d)
    (hw : s.tx.phase = .wait) : exec i s = .next (txArrival d (clearReply s)) := by
  cases i <;> simp only [ackDatagram, Option.some.injEq, reduceCtorEq] at h <;> subst h <;>
    simp [exec, execTxAck, execAck, whenEnabled, txAckEnabled, hw]

end Sys2Proof.Machine
end

