-- ==== Sys2Proof/Laws/Invariant.lean ====
section
/-! SUPPORT. The invariant's parts depend on their own fields only, and TX_FILL keeps what they say of the window and
of the forward channel; what an honest session has delivered is a prefix of the source. -/

namespace Sys2Proof.Machine

theorem TxInv.congr {s t : State} (h : TxInv s) (htx : t.tx = s.tx) (hpar : t.txPar = s.txPar) (hsrc : t.src = s.src)
    (hb : t.build = s.build) (hcfg : t.txCfg = s.txCfg) : TxInv t := by
  cases s; cases t
  simp only at htx hpar hsrc hb hcfg
  subst htx hpar hsrc hb hcfg
  exact ⟨h.1, h.2, h.3, h.4, h.5, h.6, h.7, h.8, h.9, h.10, h.11, h.12, h.13, h.14, fun hw =>
    let l := h.legal hw
    ⟨l.1, l.2, l.3, l.4, l.5, l.6, l.7⟩, h.16, h.17, h.18, h.19, h.20, h.21, h.22⟩

theorem Listening.congr {s t : State} (h : Listening s) (hrx : t.rx = s.rx) (hpar : t.rxPar = s.rxPar)
    (hb : t.build = s.build) : Listening t := by
  cases s; cases t
  simp only at hrx hpar hb
  subst hrx hpar hb
  exact ⟨h.1, h.2, h.3, h.4, h.5, h.6⟩

theorem RxInv.congr {s t : State} (h : RxInv s) (hrx : t.rx = s.rx) (hpar : t.rxPar = s.rxPar)
    (hb : t.build = s.build) : RxInv t := by
  refine ⟨?_, ?_, ?_, ?_, ?_, fun hl => (h.listen (hrx ▸ hl)).congr hrx hpar hb, ?_, ?_, ?_, ?_⟩
  · rw [hrx]; exact h.buf_wf
  · rw [hrx, hb]; exact h.payloads
  · rw [hrx, hpar]; exact h.capacity
  · rw [hpar]; exact h.rws_lt
  · rw [hrx]; exact h.idle
  · rw [hrx, hpar]; exact h.done
  · intro hf
    rcases h.faultState (hrx ▸ hf) with hl | hr
    · exact .inl (hl.congr hrx hpar hb)
    · exact .inr (by rw [hrx]; exact hr)
  · rw [hrx]; exact h.faulted
  · rw [hrx]; exact h.fault_rx

/-- The channels stay in order when what joins them is no longer than a port can carry. -/
theorem ChannelInv.grow {s t : State} (h : ChannelInv s) (hb : t.build = s.build) (hf : Channel.WF t.forward)
    (hr : Channel.WF t.reverse) (hf' : ∀ d ∈ t.forward, d ∈ s.forward ∨ d.length ≤ s.build.maxPayload + 8)
    (hr' : ∀ d ∈ t.reverse, d ∈ s.reverse ∨ d.length ≤ s.build.maxPayload + 8) : ChannelInv t := by
  refine ⟨hf, hr, fun d hd => ?_, fun d hd => ?_⟩ <;> rw [hb]
  · exact (hf' d hd).elim (h.forward_fits d) id
  · exact (hr' d hd).elim (h.reverse_fits d) id

theorem emit_forward_wf {s : State} (p : OutPort) (d : Datagram) (h : Channel.WF s.forward) :
    Channel.WF (emit p d s).forward := by
  cases p
  · exact Channel.add_wf h
  · exact h

theorem resend_forward_wf (ps : List Packet) {s : State} (h : Channel.WF s.forward) :
    Channel.WF (resend ps s).forward := by
  induction ps generalizing s with
  | nil => exact h
  | cons p ps ih => exact ih (emit_forward_wf _ _ h)

theorem txFillOne_forward_wf {s : State} (h : Channel.WF s.forward) : Channel.WF (txFillOne s).forward := by
  rcases txFillOne_cases s with ⟨-, he⟩ | ⟨-, he⟩ <;> rw [he, sendNew_forward] <;> exact Channel.add_wf h

theorem streamPacket_payload_length {src : Bytes} {ps k m : Nat} (h1 : 1 ≤ m) (h2 : ps ≤ m) :
    (streamPacket src ps k).payload.length ≤ m := by
  simp only [streamPacket, mkPkt]
  split
  · simp only [chunkOf, List.length_take, List.length_drop]
    omega
  · exact h1

@[simp] theorem firstTransmission_length (cs : List Int) (p : Packet) :
    (firstTransmission cs p).length = p.payload.length + 8 := by
  unfold firstTransmission
  split <;> simp

/-- What TX_FILL keeps of a sender that stands right: the window's form, contents and size, the numbers, and the
forward channel. -/
structure FillKeeps (s u : State) : Prop where
  window_wf : Store.WF u.tx.window
  records : RecordsOk u
  capacity : u.tx.window.length ≤ s.txPar.sws
  next_le : u.tx.nextSeqNum ≤ 2147483648
  forward_wf : Channel.WF u.forward
  forward_fits : ∀ d ∈ u.forward, d ∈ s.forward ∨ d.length ≤ s.build.maxPayload + 8

theorem FillFrom.forward_fits {s u : State} {j : Nat} (h : FillFrom s j u) (hb : 1 ≤ s.build.maxPayload)
    (hps : s.txPar.pktSize ≤ s.build.maxPayload) :
    ∀ d ∈ u.forward, d ∈ s.forward ∨ d.length ≤ s.build.maxPayload + 8 := by
  intro d hd
  refine (List.mem_append.1 (h.forward.mem_iff.1 hd)).imp_right fun hn => ?_
  simp only [newDatagrams, List.mem_map] at hn
  obtain ⟨p, hp, rfl⟩ := hn
  obtain ⟨i, -, rfl⟩ := mem_newPackets hp
  have := streamPacket_payload_length (src := s.src) (k := s.tx.nextSeqNum + i) hb hps
  rw [firstTransmission_length]
  omega

theorem txFill_keeps {s : State} (hb : 1 ≤ s.build.maxPayload) (hps1 : 1 ≤ s.txPar.pktSize)
    (hps2 : s.txPar.pktSize ≤ s.build.maxPayload) (hpos : StreamPos s) (hw : Store.WF s.tx.window) (hr : RecordsOk s)
    (hcap : s.tx.window.length ≤ s.txPar.sws) (hn : s.tx.nextSeqNum ≤ 2147483648) (hc : Channel.WF s.forward) :
    ∃ j u, FillFrom s j u ∧ FillKeeps s u ∧
      ((txFill s = .completed u ∧ txFillMore u = false) ∨
       (txFillMore u = true ∧ seqMax < u.tx.nextSeqNum ∧ txFill s = .raised (raise .tx .seqExhausted u))) := by
  have hk : ∀ e ∈ s.tx.window, e.1 < s.tx.nextSeqNum := fun e he => (hr e he).2.1
  have key : ∀ j u, FillFrom s j u → Channel.WF u.forward → FillKeeps s u := by
    intro j u h hwf
    refine ⟨h.window_wf hw hk, h.records hr, ?_, ?_, hwf, h.forward_fits hb hps2⟩
    · rcases h.room with rfl | h'
      · simpa [h.window, newPackets] using hcap
      · exact h'
    · rcases h.numbers with rfl | h'
      · simpa [h.nextSeqNum] using hn
      · exact h'
  rcases txFill_induct (P := fun u => (∃ j, FillFrom s j u) ∧ Channel.WF u.forward)
      (fun u ⟨⟨j, hu⟩, hwf⟩ hm hn => ⟨⟨j + 1, hu.step hps1 hk hm hn⟩, txFillOne_forward_wf hwf⟩)
      ⟨⟨0, fillFrom_zero hpos⟩, hc⟩ with ⟨t, ht, ⟨j, hj⟩, hwf⟩ | ⟨u, ⟨⟨j, hj⟩, hwf⟩, h⟩
  · exact ⟨j, t, hj, key j t hj hwf, .inl ⟨ht, txFill_exit ht⟩⟩
  · exact ⟨j, u, hj, key j u hj hwf, .inr h⟩

/-! What an honest session has delivered -/

/-- The first chunks of the source, one after another, are its first bytes. -/
theorem delivered_eq_take (s : State) (n : Nat) : delivered s n = s.src.take (n * s.txPar.pktSize) := by
  induction n with
  | zero => simp [delivered]
  | succ n ih =>
    rw [delivered, List.range_succ, List.map_append, List.flatten_append, ← delivered, ih, Nat.succ_mul, List.take_add]
    simp [chunkOf]

theorem Honest.out_prefix {s : State} (h : Honest s) : s.out <+: s.src := by
  have hd : ∀ n, s.out = delivered s n → s.out <+: s.src := fun n hn => by
    rw [hn, delivered_eq_take]; exact List.take_prefix _ _
  rcases hp : s.rx.phase with _ | _ | _ | _
  · rw [h.idle hp]; exact List.nil_prefix
  · exact hd _ (h.listening hp).1
  · obtain ⟨n, -, hn⟩ := h.ended (.inl hp); exact hd n hn
  · obtain ⟨n, -, hn⟩ := h.ended (.inr hp); exact hd n hn

end Sys2Proof.Machine
end

