-- ==== Sys2Proof/Laws/PerInstr.lean ====
section
/-! SUPPORT. Statements made per instruction.  RoundTrip: the decoder reads back what the encoder wrote, for every
well-formed instruction with every value of its fields (R90 to R99). -/

namespace Sys2Proof

theorem decodeEvent_mkEvent (op : Byte) (data : Bytes) : decode (mkEvent op data) = decodeSelector op data := by
  simp [decode, mkEvent, decodeEvent]

theorem decodeEncPkt_fields (seq checksum : Word) (payload : Bytes) :
    decodeEncPkt (be32 seq ++ be32 checksum ++ payload) = .ok (.encPkt seq checksum payload) := by
  show Except.ok _ = _
  simp only [unbe32_be32]
  rfl

theorem decodeEncAck_fields (seq : Word) : decodeEncAck (be32 seq) = .ok (.encAck seq) := by
  show Except.ok _ = _
  simp only [unbe32_be32]

/-- A data packet that is not the end-marker decodes to its fields (R90, R91). -/
theorem decodePktIn_data {seq checksum : Word} {payload : Bytes}
    (h : ¬(checksum = 0xFF000000#32 ∧ payload = [0xFF#8])) :
    decodePktIn (be32 seq ++ be32 checksum ++ payload) = .ok (.pktData seq checksum payload) := by
  show (if unbe32 _ _ _ _ = 0xFF000000#32 ∧ [].append payload = [0xFF#8] then _ else _) = _
  simp only [unbe32_be32]
  exact if_neg h

/-- The end-marker decodes to its number (R94). -/
theorem decodePktIn_eom (seq : Word) :
    decodePktIn (be32 seq ++ [0xFF#8, 0x00#8, 0x00#8, 0x00#8, 0xFF#8]) = .ok (.pktEom seq) := by
  have h (b0 b1 b2 b3 : Byte) : decodePktIn [b0, b1, b2, b3, 0xFF#8, 0x00#8, 0x00#8, 0x00#8, 0xFF#8] =
      .ok (.pktEom (unbe32 b0 b1 b2 b3)) := by simp [decodePktIn, unbe32]
  exact (h _ _ _ _).trans (by rw [unbe32_be32])

theorem decodeAckIn_fields (seq : Word) (rest : Bytes) : decodeAckIn (be32 seq ++ rest) = .ok (.ack seq rest) := by
  show Except.ok _ = _
  simp only [unbe32_be32]
  rfl

namespace Laws.RoundTrip

/-- Decoding what was encoded gives the instruction back. -/
def Statement (i : Instr) : Prop :=
  ∀ b : Config.Build, i.wellFormed b = true → decode (encode i) = .ok i

theorem crc32 (payload : Bytes) : Statement (.crc32 payload) := fun _ _ => decodeEvent_mkEvent _ _

theorem encPkt (seq checksum : Word) (payload : Bytes) : Statement (.encPkt seq checksum payload) := fun _ _ =>
  (decodeEvent_mkEvent _ _).trans (decodeEncPkt_fields seq checksum payload)

theorem decPkt (d : Datagram) : Statement (.decPkt d) := fun _ _ => decodeEvent_mkEvent _ _

theorem encAck (seq : Word) : Statement (.encAck seq) := fun _ _ =>
  (decodeEvent_mkEvent _ _).trans (decodeEncAck_fields seq)

theorem decAck (d : Datagram) : Statement (.decAck d) := fun _ _ => decodeEvent_mkEvent _ _

theorem txReset : Statement .txReset := fun _ _ => rfl

theorem txStart : Statement .txStart := fun _ _ => rfl

theorem txAck (d : Datagram) : Statement (.txAck d) := fun _ _ => decodeEvent_mkEvent _ _

theorem txTimeout : Statement .txTimeout := fun _ _ => rfl

theorem txTick : Statement .txTick := fun _ _ => rfl

theorem txIofault : Statement .txIofault := fun _ _ => rfl

theorem rxReset : Statement .rxReset := fun _ _ => rfl

theorem rxStart : Statement .rxStart := fun _ _ => rfl

theorem rxPkt (d : Datagram) : Statement (.rxPkt d) := fun _ _ => decodeEvent_mkEvent _ _

theorem rxIofault : Statement .rxIofault := fun _ _ => rfl

theorem pktData (seq checksum : Word) (payload : Bytes) : Statement (.pktData seq checksum payload) := fun b h => by
  refine decodePktIn_data fun hc => ?_
  simp [Instr.wellFormed, isEomFields, hc] at h

theorem pktEom (seq : Word) : Statement (.pktEom seq) := fun _ _ => decodePktIn_eom seq

theorem ack (seq : Word) (rest : Bytes) : Statement (.ack seq rest) := fun _ _ => decodeAckIn_fields seq rest

end Laws.RoundTrip

end Sys2Proof
end

