-- ==== Sys2Proof/Tests/Slice0.lean ====
section
/-! SUPPORT. The model's own tests.  Every expected value is printed in the spec (95_test_vectors.md, or the example of
a rule); each theorem names its source.  The second half shows that the hypotheses of the obligations can be met. -/

namespace Sys2Proof.Tests

-- One proof after another: as one text, dozens of kernel evaluations would wait at once, each in a thread of its own.
set_option Elab.async false

open Sys2Proof Sys2Proof.Machine

/-! ## Small states -/

/-- A small build. -/
def smallBuild : Config.Build :=
  { maxPayload := 16, maxSws := 4, maxRws := 4, maxCorrupt := 2, timed := true,
    startTest := .everyRegister }

/-- "ABCDEFGHIJ", "KLMNOPQRST" and "UVWXY". -/
def chunk0 : Bytes := [0x41#8, 0x42#8, 0x43#8, 0x44#8, 0x45#8, 0x46#8, 0x47#8, 0x48#8, 0x49#8, 0x4A#8]

def chunk1 : Bytes := [0x4B#8, 0x4C#8, 0x4D#8, 0x4E#8, 0x4F#8, 0x50#8, 0x51#8, 0x52#8, 0x53#8, 0x54#8]

def chunk2 : Bytes := [0x55#8, 0x56#8, 0x57#8, 0x58#8, 0x59#8]

/-- The source stream of B4. -/
def letters : Bytes := chunk0 ++ chunk1 ++ chunk2

/-- The records of that stream, with the checksums printed in B1.1. -/
def rec0 : Packet := { seq := 0, checksum := 0x321E6D05#32, payload := chunk0 }

def rec1 : Packet := { seq := 1, checksum := 0x3CDEC33B#32, payload := chunk1 }

def rec2 : Packet := { seq := 2, checksum := 0xD191E1E1#32, payload := chunk2 }

def rec3 : Packet := { seq := 3, checksum := 0xFF000000#32, payload := [0xFF#8] }

/-- PK0, PK1, PK2 and EM3 of B4. -/
def pk0 : Datagram := [0x00#8, 0x00#8, 0x00#8, 0x00#8, 0x32#8, 0x1E#8, 0x6D#8, 0x05#8] ++ chunk0

def pk1 : Datagram := [0x00#8, 0x00#8, 0x00#8, 0x01#8, 0x3C#8, 0xDE#8, 0xC3#8, 0x3B#8] ++ chunk1

def pk2 : Datagram := [0x00#8, 0x00#8, 0x00#8, 0x02#8, 0xD1#8, 0x91#8, 0xE1#8, 0xE1#8] ++ chunk2

def em3 : Datagram := [0x00#8, 0x00#8, 0x00#8, 0x03#8, 0xFF#8, 0x00#8, 0x00#8, 0x00#8, 0xFF#8]

/-- TX configuration registers. -/
def txCfg (pktSize sws finalTimeouts corruptLen : Word) (list : List Word) : TxCfg :=
  { pktSize := pktSize, sws := sws, rttTicks := 2#32, finalTimeouts := finalTimeouts, corruptLen := corruptLen,
    corruptIdx := 0#32, corruptList := list }

/-- Both engines after power-on, configured, with the stream of B4. -/
def idleState (c : TxCfg) : State :=
  { State.powerOn smallBuild c { rws := 4#32 } with src := letters }

/-- A sender in `TX_WAIT`. -/
def waitState (pktSize sws : Nat) (limit : Option Nat) (src : Bytes) (tx : TxState) : State :=
  { State.powerOn smallBuild (txCfg 10#32 4#32 1#32 0#32 [0#32, 0#32]) { rws := 4#32 } with
    src := src, tx := tx
    txPar := {
      pktSize := pktSize, sws := sws, rttTicks := 2, timeoutTicks := 30, finalTimeouts := limit, corruptSet := [] } }

/-- The TX registers of B4.2: `SWS = 3`, the end-marker not queued. -/
def tx42 : TxState :=
  { TxState.init with
    phase := .wait, nextSeqNum := 3, window := [(0, rec0), (1, rec1), (2, rec2)], cursor := 25, timerArmed := true
    timerCnt := 30 }

/-- The TX registers of B4.6: one ACK later, the end-marker queued. -/
def tx46 : TxState :=
  { TxState.init with
    phase := .wait, base := 1, nextSeqNum := 4, eomQueued := true, eomSeq := 3
    window := [(1, rec1), (2, rec2), (3, rec3)], cursor := 25, timerArmed := true, timerCnt := 30 }

/-- The TX registers of B4.1: `SWS = 4`, all four packets sent. -/
def tx41 : TxState :=
  { tx46 with base := 0, window := [(0, rec0), (1, rec1), (2, rec2), (3, rec3)] }

/-- The TX registers B4.8 starts from. -/
def tx48 : TxState :=
  { tx46 with base := 3, window := [(3, rec3)] }

/-- A receiver in `RX_LISTEN` with `RWS = 4`. -/
def listenState (lfr : Int) (buf : Store Bytes) (out : Bytes) : State :=
  { State.powerOn smallBuild (txCfg 10#32 4#32 1#32 0#32 [0#32, 0#32]) { rws := 4#32 } with
    rx := { phase := .listen, fault := none, lfr := lfr, laf := lfr + 4, buf := buf }
    rxPar := { rws := 4 }, out := out }

/-- What an answer holds, when it is a next state. -/
def seen {α : Type} (a : Answer) (f : State → α) : Option α :=
  match a with
  | .next s => some (f s)
  | .fault _ => none
  | .refused _ => none

/-- The fault of an answer. -/
def stopOf (a : Answer) : Option Fault :=
  match a with
  | .next _ => none
  | .fault r => some r
  | .refused _ => none

/-- The next state of an answer. -/
def nextOf (a : Answer) : State :=
  match a with
  | .next s => s
  | .fault _ => State.reset
  | .refused _ => State.reset

/-- The answer is a next state. -/
def completes (a : Answer) : Bool :=
  match a with
  | .next _ => true
  | .fault _ => false
  | .refused _ => false

theorem eq_next {a : Answer} (h : completes a = true) : a = .next (nextOf a) := by
  cases a <;> first | rfl | cases h

/-- The keys of the window. -/
def keys (s : State) : List Int :=
  s.tx.window.map Prod.fst

/-! ## Well-formedness: one ill-formed term for each check -/

theorem test_wf_payload_fits : Instr.wellFormed smallBuild (.crc32 (List.replicate 16 0#8)) = true := by decide

theorem test_wf_crc32_too_long : Instr.wellFormed smallBuild (.crc32 (List.replicate 17 0#8)) = false := by decide

theorem test_wf_encPkt_too_long :
    Instr.wellFormed smallBuild (.encPkt 0#32 0#32 (List.replicate 17 0#8)) = false := by decide

theorem test_wf_datagram_fits : Instr.wellFormed smallBuild (.rxPkt (List.replicate 24 0#8)) = true := by decide

theorem test_wf_decPkt_too_long : Instr.wellFormed smallBuild (.decPkt (List.replicate 25 0#8)) = false := by decide

theorem test_wf_decAck_too_long : Instr.wellFormed smallBuild (.decAck (List.replicate 25 0#8)) = false := by decide

theorem test_wf_txAck_too_long : Instr.wellFormed smallBuild (.txAck (List.replicate 25 0#8)) = false := by decide

theorem test_wf_rxPkt_too_long : Instr.wellFormed smallBuild (.rxPkt (List.replicate 25 0#8)) = false := by decide

theorem test_wf_pktData_too_long :
    Instr.wellFormed smallBuild (.pktData 0#32 0#32 (List.replicate 17 0#8)) = false := by decide

theorem test_wf_pktData_is_end_marker :
    Instr.wellFormed smallBuild (.pktData 7#32 0xFF000000#32 [0xFF#8]) = false := by decide

theorem test_wf_ack_too_long : Instr.wellFormed smallBuild (.ack 0#32 (List.replicate 21 0#8)) = false := by decide

/-! ## Decoding: a word written out for each constructor (R90 to R99) -/

theorem test_decode_crc32 : decode (.event 0x00#8 2 [0x41#8, 0x42#8]) = .ok (.crc32 [0x41#8, 0x42#8]) := by decide

theorem test_decode_encPkt :
    decode (.event 0x01#8 9 [0x00#8, 0x00#8, 0x00#8, 0x03#8, 0xFF#8, 0x00#8, 0x00#8, 0x00#8, 0xFF#8]) =
      .ok (.encPkt 3#32 0xFF000000#32 [0xFF#8]) := by decide

theorem test_decode_decPkt : decode (.event 0x02#8 1 [0x00#8]) = .ok (.decPkt [0x00#8]) := by decide

theorem test_decode_encAck :
    decode (.event 0x03#8 4 [0x00#8, 0x00#8, 0x01#8, 0x02#8]) = .ok (.encAck 258#32) := by decide

theorem test_decode_decAck : decode (.event 0x04#8 1 [0x05#8]) = .ok (.decAck [0x05#8]) := by decide

theorem test_decode_txReset : decode (.event 0x10#8 0 []) = .ok .txReset := by decide

theorem test_decode_txStart : decode (.event 0x11#8 0 []) = .ok .txStart := by decide

theorem test_decode_txAck :
    decode (.event 0x12#8 4 [0x00#8, 0x00#8, 0x00#8, 0x00#8]) = .ok (.txAck [0x00#8, 0x00#8, 0x00#8, 0x00#8]) := by
  decide

theorem test_decode_txTimeout : decode (.event 0x13#8 0 []) = .ok .txTimeout := by decide

theorem test_decode_txTick : decode (.event 0x14#8 0 []) = .ok .txTick := by decide

theorem test_decode_txIofault : decode (.event 0x15#8 0 []) = .ok .txIofault := by decide

theorem test_decode_rxReset : decode (.event 0x20#8 0 []) = .ok .rxReset := by decide

theorem test_decode_rxStart : decode (.event 0x21#8 0 []) = .ok .rxStart := by decide

theorem test_decode_rxPkt : decode (.event 0x22#8 9 em3) = .ok (.rxPkt em3) := by decide

theorem test_decode_rxIofault : decode (.event 0x23#8 0 []) = .ok .rxIofault := by decide

theorem test_decode_pktData : decode (.datagram .pktIn pk2) = .ok (.pktData 2#32 0xD191E1E1#32 chunk2) := by decide

theorem test_decode_pktEom : decode (.datagram .pktIn em3) = .ok (.pktEom 3#32) := by decide

theorem test_decode_ack :
    decode (.datagram .ackIn [0x00#8, 0x00#8, 0x01#8, 0x02#8]) = .ok (.ack 258#32 []) := by decide

/-- R100, R98, R97: what is rejected, by name. -/
theorem test_decode_rejects :
    decode (.event 0x05#8 0 []) = .error .reservedSelector ∧ decode (.event 0x16#8 0 []) = .error .reservedSelector ∧
    decode (.event 0x24#8 0 []) = .error .reservedSelector ∧ decode (.event 0xFF#8 0 []) = .error .reservedSelector ∧
    decode (.event 0x10#8 1 []) = .error .lengthMismatch ∧ decode (.event 0x10#8 1 [0#8]) = .error .operandNotEmpty ∧
    decode (.event 0x03#8 3 [0#8, 0#8, 0#8]) = .error .operandLength ∧
    decode (.datagram .pktIn (List.replicate 7 0#8)) = .error .malformedPacket ∧
    decode (.datagram .ackIn (List.replicate 3 0#8)) = .error .malformedAck := by decide

/-- Rows of the opcode table: a selector, an ACK, a packet header and an end-marker. -/
theorem test_table_words :
    decodeTableWord 8 0x11 = some .txStart ∧ decodeTableWord 8 0x01 = some (.encPkt 0#32 0#32 []) ∧
    decodeTableWord 32 0x00000102 = some (.ack 258#32 []) ∧
    decodeTableWord 64 0x0000000200000000 = some (.pktData 2#32 0#32 []) ∧
    decodeTableWord 72 0x00000003FF000000FF = some (.pktEom 3#32) ∧ decodeTableWord 8 0x05 = none := by decide

/-- The word placed by `withFetchWord` is what the next step runs. -/
theorem test_withFetchWord_runs :
    seen (step (State.reset.withFetchWord 8 0x10)) (fun s => s.last.labels) = some [.reset] ∧
    seen (step ((listenState 2 [] []).withFetchWord 72 0x00000003FF000000FF)) (fun s => (s.last.labels, s.forward)) =
      some ([.eom], []) := by decide +kernel

/-! ## CODEC (B1, B2, B3) -/

theorem test_crc32_check_value :
    seen (exec (.crc32 [0x31#8, 0x32#8, 0x33#8, 0x34#8, 0x35#8, 0x36#8, 0x37#8, 0x38#8, 0x39#8]) State.reset)
      (fun s => s.last.result) = some (some (.checksum 0xCBF43926#32)) := by decide +kernel

theorem test_crc32_order_matters :
    crc32 [0x41#8, 0x42#8] = 0x30694C07#32 ∧ crc32 [0x42#8, 0x41#8] = 0x824D4E7E#32 := by decide +kernel

/-- B2.3. -/
theorem test_encPkt_negative :
    seen (exec (.encPkt 0xFFFFFFFF#32 0x12345678#32 [0x01#8]) State.reset) (fun s => s.last.result) =
      some (some (.datagram [0xFF#8, 0xFF#8, 0xFF#8, 0xFF#8, 0x12#8, 0x34#8, 0x56#8, 0x78#8, 0x01#8])) := by
  decide +kernel

/-- B2.9. -/
theorem test_decPkt_signed :
    seen (exec (.decPkt [0x80#8, 0#8, 0#8, 0#8, 0#8, 0#8, 0#8, 0#8, 0x5A#8]) State.reset) (fun s => s.last.result) =
      some (some (.packet { seq := -2147483648, checksum := 0#32, payload := [0x5A#8] })) := by decide +kernel

/-- B2.6. -/
theorem test_decPkt_seven_bytes :
    seen (exec (.decPkt [0#8, 0#8, 0#8, 0#8, 0xFF#8, 0#8, 0#8]) State.reset) (fun s => s.last.result) =
      some (some .malformedPacket) := by decide +kernel

/-- B3.6. -/
theorem test_encAck_two_to_31 :
    seen (exec (.encAck 0x80000000#32) State.reset) (fun s => s.last.result) =
      some (some (.datagram [0x80#8, 0#8, 0#8, 0#8])) := by decide +kernel

/-- B3.8. -/
theorem test_decAck_signed :
    seen (exec (.decAck [0xFF#8, 0xFF#8, 0xFF#8, 0xFF#8]) State.reset) (fun s => s.last.result) =
      some (some (.ackValue (-1))) := by decide +kernel

/-- B3.13. -/
theorem test_decAck_three_bytes :
    seen (exec (.decAck [0#8, 0#8, 5#8]) State.reset) (fun s => s.last.result) = some (some .malformedAck) := by
  decide +kernel

/-- B3.20. -/
theorem test_corrupt_flips_bit_0 : corrupt pk1 = pk1.take 8 ++ 0x4A#8 :: pk1.drop 9 := by decide +kernel

/-! ## TX (B4) -/

/-- B4.1. -/
theorem test_txStart_first_window :
    seen (exec .txStart (idleState (txCfg 10#32 4#32 1#32 0#32 [0#32, 0#32])))
      (fun s => (s.pktOut, s.tx, s.last.labels)) = some ([pk0, pk1, pk2, em3], tx41, [.started]) := by decide +kernel

/-- P3: packet 1 leaves corrupted, its record is clean. -/
theorem test_txStart_corrupts_first_transmission :
    seen (exec .txStart (idleState (txCfg 10#32 2#32 1#32 1#32 [1#32, 0#32])))
      (fun s => (s.pktOut, s.tx.window, s.tx.cursor, s.tx.eomQueued)) =
      some ([pk0, pk1.take 8 ++ 0x4A#8 :: pk1.drop 9], [(0, rec0), (1, rec1)], 20, false) := by decide +kernel

/-- B4.6. -/
theorem test_txAck_refills :
    seen (exec (.txAck [0#8, 0#8, 0#8, 0#8]) (waitState 10 3 (some 1) letters tx42))
      (fun s => (s.pktOut, s.tx, s.last.labels)) = some ([em3], tx46, [.advance]) := by decide +kernel

/-- B4.8. -/
theorem test_txAck_ends_session :
    seen (exec (.txAck [0#8, 0#8, 0#8, 3#8]) (waitState 10 4 (some 1) letters tx48))
      (fun s => (s.tx, s.last.labels)) =
      some ({ tx48 with phase := .done, base := 4, window := [], timerArmed := false, timerCnt := 0 },
        [.advance, .done]) := by decide +kernel

/-- B4.7: the fifth byte is ignored. -/
theorem test_ack_fifth_byte :
    seen (exec (.ack 1#32 [0xAA#8]) (waitState 10 4 (some 1) letters tx41))
      (fun s => (s.tx.base, keys s, s.last.labels)) = some (2, [2, 3], [.advance]) := by decide +kernel

/-- B4.7: `a = -1` is stale, the timer is reloaded. -/
theorem test_ack_minus_one_stale :
    seen (exec (.ack 0xFFFFFFFF#32 []) (waitState 10 4 (some 1) letters { tx41 with timerCnt := 5 }))
      (fun s => (s.tx, s.pktOut, s.last.labels)) = some (tx41, [], [.stale]) := by decide +kernel

/-- B4.9. -/
theorem test_txTimeout_retransmits :
    seen (exec .txTimeout (waitState 10 3 (some 1) letters { tx42 with timerCnt := 0 }))
      (fun s => (s.pktOut, s.tx, s.last.labels)) = some ([pk0, pk1, pk2], tx42, [.retransmit 3]) := by decide +kernel

/-- B4.10. -/
theorem test_txTimeout_gives_up :
    seen (exec .txTimeout (waitState 10 3 (some 1) letters { tx46 with timerCnt := 0 }))
      (fun s => (s.pktOut, s.tx, s.last.labels)) =
      some ([pk1, pk2, em3], { tx46 with phase := .gaveup, timerArmed := false, timerCnt := 0, finalTimeouts := 1 },
        [.retransmit 3, .gaveup]) := by decide +kernel

/-- B4.12. -/
theorem test_txTick :
    seen (exec .txTick (waitState 10 3 (some 1) letters tx42)) (fun s => s.tx) = some { tx42 with timerCnt := 29 } ∧
    stopOf (exec .txTick (waitState 10 3 (some 1) letters { tx42 with timerCnt := 0 })) = some .notEnabled := by
  decide +kernel

/-- B4.15. -/
theorem test_txIofault :
    seen (exec .txIofault (waitState 10 4 (some 1) letters tx48)) (fun s => (s.tx, s.last.labels)) =
      some ({ tx48 with phase := .fault, fault := some .ioFault, timerArmed := false, timerCnt := 0 },
        [.fault .ioFault]) := by decide +kernel

/-- B4.18. -/
theorem test_txReset :
    seen (exec .txReset (waitState 10 3 (some 1) letters tx46)) (fun s => (s.tx, s.txCfg, s.last.labels)) =
      some (TxState.init, txCfg 10#32 4#32 1#32 0#32 [0#32, 0#32], [.reset]) := by decide +kernel

/-! ## RX (B5) -/

/-- B5.7. -/
theorem test_rxStart :
    seen (exec .rxStart (idleState (txCfg 10#32 4#32 1#32 0#32 [0#32, 0#32]))) (fun s => (s.rx, s.ackOut)) =
      some ({ phase := .listen, fault := none, lfr := -1, laf := 3, buf := [] }, []) := by decide +kernel

/-- B5.7, `RWS = 0`. -/
theorem test_rxStart_illegal :
    seen (exec .rxStart (State.powerOn smallBuild (TxCfg.atPowerOn 2) { rws := 0#32 })) (fun s => s.rx) =
      some { phase := .fault, fault := some .configError, lfr := -1, laf := -1, buf := [] } := by decide +kernel

/-- The example of R176. -/
theorem test_rxPkt_drains :
    seen (exec (.rxPkt [0#8, 0#8, 0#8, 1#8, 0x1B#8, 0x44#8, 0x1F#8, 0xC4#8, 0x42#8, 0x42#8])
        (listenState 0 [(2, [0x43#8, 0x43#8])] [0x41#8, 0x41#8])) (fun s => (s.rx, s.last)) =
      some ({ phase := .listen, fault := none, lfr := 2, laf := 6, buf := [] }, { labels := [.accept 2], result := none, effects := [
        .sink [0x42#8, 0x42#8], .ackOut [0#8, 0#8, 0#8, 1#8], .sink [0x43#8, 0x43#8],
        .ackOut [0#8, 0#8, 0#8, 2#8]] }) := by decide +kernel

/-- B5.1: an in-window packet with a buffered number replaces the payload and is not acknowledged. -/
theorem test_rxPkt_replaces :
    seen (exec (.rxPkt [0#8, 0#8, 0#8, 2#8, 0xC0#8, 0xB5#8, 0x06#8, 0xDD#8, 0x59#8])
        (listenState 0 [(2, [0x5A#8])] [])) (fun s => (s.rx.buf, s.ackOut, s.last.labels)) =
      some ([(2, [0x59#8])], [], [.accept 0]) := by decide +kernel

/-- B5.1: a negative number is out of the window. -/
theorem test_pktData_negative_is_oow :
    seen (exec (.pktData 0xFFFFFFFB#32 0x59BC5767#32 [0x5A#8]) (listenState 0 [] []))
      (fun s => (s.rx.lfr, s.ackOut, s.out, s.last.labels)) = some (0, [[0#8, 0#8, 0#8, 0#8]], [], [.oow]) := by
  decide +kernel

/-- B5.1: payload FF under a wrong checksum is no end-marker. -/
theorem test_pktData_badcrc :
    seen (exec (.pktData 1#32 0xFF000001#32 [0xFF#8]) (listenState 0 [] []))
      (fun s => (s.rx.phase, s.ackOut, s.last.labels)) = some (.listen, [[0#8, 0#8, 0#8, 0#8]], [.badcrc]) := by
  decide +kernel

/-- B5.4. -/
theorem test_pktEom_any_number :
    seen (exec (.pktEom 0x63#32) (listenState 2 [] []))
      (fun s => (s.rx, s.ackOut, s.out)) =
      some ({ phase := .done, fault := none, lfr := 3, laf := 6, buf := [] }, [[0#8, 0#8, 0#8, 3#8]], []) := by decide +kernel

/-- B5.5. -/
theorem test_pktEom_at_the_top :
    seen (exec (.pktEom 5#32) (listenState 2147483647 [] [])) (fun s => (s.rx.lfr, s.ackOut)) =
      some (2147483648, [[0x80#8, 0#8, 0#8, 0#8]]) := by decide +kernel

/-- B5.8. -/
theorem test_rxIofault :
    seen (exec .rxIofault (listenState 1 [] [0x41#8])) (fun s => (s.rx.phase, s.rx.fault, s.rx.lfr, s.out)) =
      some (.fault, some .ioFault, 1, [0x41#8]) := by decide +kernel

/-- B5.10. -/
theorem test_rxReset :
    seen (exec .rxReset (listenState 0 [(2, [0x43#8, 0x43#8])] [0x41#8])) (fun s => (s.rx, s.out)) =
      some (RxState.init, [0x41#8]) := by decide +kernel

/-! ## The step and the host (B6, R75) -/

/-- R41: `tx.stat.EOM` of B4.1, and an undefined number. -/
theorem test_host_reads :
    seen (step { waitState 10 4 (some 1) letters tx41 with inputs := [.hostRead 0x1D#8] }) (fun s => s.last.result) =
      some (some (.register 0x80000003#32)) ∧
    seen (step { waitState 10 4 (some 1) letters tx41 with inputs := [.hostRead 0x17#8] }) (fun s => s.last.result) =
      some (some (.register 0#32)) := by decide +kernel

/-- B6: a write of 8 to `SWS` in `TX_WAIT` has no effect. -/
theorem test_host_write_in_wait :
    seen (step { waitState 10 4 (some 1) letters tx41 with inputs := [.hostWrite 0x11#8 8#32] })
      (fun s => s.txCfg.sws) = some 4#32 := by decide +kernel

/-- R203: the datagram of an arrival that is not enabled is not consumed: there is no step. -/
theorem test_delivery_not_enabled :
    stopOf (step { State.reset with reverse := [[0#8, 0#8, 0#8, 0#8]], inputs := [.deliver .ackIn [0#8, 0#8, 0#8, 0#8]] })
      = some .notEnabled := by decide +kernel

/-- R100. -/
theorem test_reserved_selector :
    stopOf (step { State.reset with inputs := [.event 0x30#8 0 []] }) = some .reservedSelector := by decide +kernel

/-! ## States that meet the invariant -/

/-- A sender that has sent the first of the two one-byte chunks of "AB", `SWS = 1`. -/
def sending (cnt : Nat) : State :=
  waitState 1 1 (some 1) [0x41#8, 0x42#8] { TxState.init with
    phase := .wait, nextSeqNum := 1, window := [(0, mkPkt 0 [0x41#8])], cursor := 1, timerArmed := true
    timerCnt := cnt }

/-- A sender of an empty stream that waits for the ACK of the end-marker. -/
def ending (limit : Option Nat) (cnt : Nat) : State :=
  waitState 1 1 limit [] { TxState.init with
    phase := .wait, nextSeqNum := 1, eomQueued := true, eomSeq := 0, window := [(0, mkPkt 0 [0xFF#8])], cursor := 0
    timerArmed := true, timerCnt := cnt }

/-- The receiver of R176's example. -/
def rxListening : RxState :=
  { phase := .listen, fault := none, lfr := 0, laf := 4, buf := [(2, [0x43#8, 0x43#8])] }

/-- The ACK for 0, and packet 1 "BB" of R176's example. -/
def ack0 : Datagram := [0#8, 0#8, 0#8, 0#8]

def packetBB : Datagram := [0#8, 0#8, 0#8, 1#8, 0x1B#8, 0x44#8, 0x1F#8, 0xC4#8, 0x42#8, 0x42#8]

/-- A waiting sender, a listening receiver, a datagram in flight each way. -/
def session : State :=
  { sending 30 with rx := rxListening, rxPar := { rws := 4 }, forward := [packetBB], reverse := [ack0] }

/-- An honest session: the sender has sent packet 0, the receiver has nothing yet. -/
def honestSession : State :=
  { sending 30 with
    rx := { phase := .listen, fault := none, lfr := -1, laf := 3, buf := [] }, rxPar := { rws := 4 }
    forward := [encPkt (mkPkt 0 [0x41#8])] }

/-- The invariant of a receiver after power-on. -/
theorem rxInv_idle {s : State} (h : s.rx = RxState.init) (hp : s.rxPar = { rws := 0 }) : RxInv s := by
  constructor <;> simp [h, hp, RxState.init]

/-- The invariant of two empty channels. -/
theorem channelInv_empty {s : State} (hf : s.forward = []) (hr : s.reverse = []) : ChannelInv s := by
  constructor <;> simp [hf, hr]

theorem smallBuild_legal : smallBuild.Legal := by decide

theorem idleState_inv (c : TxCfg) (h : c.corruptList.length = 2) : Inv (idleState c) := by
  refine ⟨smallBuild_legal, ?_, rxInv_idle rfl rfl, channelInv_empty rfl rfl⟩
  constructor <;> simp [idleState, State.powerOn, TxState.init, smallBuild, h]

theorem sending_tx {cnt : Nat} (h : cnt ≤ 30) : TxInv (sending cnt) := by
  constructor
  case records => exact (by decide +kernel : ∀ e ∈ (sending 0).tx.window, 0 ≤ e.1 ∧ e.1 < 1 ∧
    e.2 = streamPacket [0x41#8, 0x42#8] 1 e.1.toNat)
  case legal => exact fun _ => by constructor <;> simp [sending, waitState, State.powerOn, smallBuild]
  all_goals simp [sending, waitState, State.powerOn, TxState.init, txFillMore, smallBuild, txCfg, numChunks, h]

theorem sending_inv {cnt : Nat} (h : cnt ≤ 30) : Inv (sending cnt) :=
  ⟨smallBuild_legal, sending_tx h, rxInv_idle rfl rfl, channelInv_empty rfl rfl⟩

theorem ending_inv {limit : Option Nat} {cnt : Nat} (h : cnt ≤ 30) (hl : ∀ n, limit = some n → 1 ≤ n ∧ n < 4294967296) :
    Inv (ending limit cnt) := by
  refine ⟨smallBuild_legal, ?_, rxInv_idle rfl rfl, channelInv_empty rfl rfl⟩
  constructor
  case records => exact (by decide +kernel : ∀ e ∈ (ending none 0).tx.window, 0 ≤ e.1 ∧ e.1 < 1 ∧
    e.2 = streamPacket [] 1 e.1.toNat)
  case legal => exact fun _ => by constructor <;> simp [ending, waitState, State.powerOn, smallBuild]
  case final_le => exact fun n hn => ⟨Nat.zero_le _, fun _ => (hl n hn).1⟩
  case final_lt => exact hl
  all_goals simp [ending, waitState, State.powerOn, TxState.init, txFillMore, smallBuild, txCfg, numChunks, h]

theorem rxListening_inv {s : State} (h : s.rx = rxListening) (hp : s.rxPar = { rws := 4 }) (hb : s.build = smallBuild) :
    RxInv s := by
  constructor
  case listen => exact fun _ => by constructor <;> simp [h, hp, hb, rxListening, smallBuild, seqMax]
  all_goals simp [h, hp, hb, rxListening, smallBuild]

theorem session_inv : Inv session :=
  ⟨smallBuild_legal, (sending_tx (Nat.le_refl 30)).congr rfl rfl rfl rfl rfl, rxListening_inv rfl rfl rfl,
    by constructor <;> simp [session, sending, waitState, State.powerOn, smallBuild, packetBB, ack0]⟩

theorem honestSession_inv : Inv honestSession := by
  refine ⟨smallBuild_legal, (sending_tx (Nat.le_refl 30)).congr rfl rfl rfl rfl rfl, ?_, ?_⟩
  · constructor
    case listen =>
      intro _
      constructor <;> simp [honestSession, sending, waitState, State.powerOn, smallBuild, seqMax]
    all_goals simp [honestSession, sending, waitState, State.powerOn, smallBuild]
  · constructor <;> simp [honestSession, sending, waitState, State.powerOn, smallBuild, encPkt, mkPkt, be32]

theorem honestSession_honest : Honest honestSession := by
  constructor
  · intro d hd
    exact ⟨0, Nat.one_pos, .inl ((List.mem_singleton.1 hd).trans (by decide +kernel))⟩
  all_goals simp [honestSession, sending, waitState, State.powerOn, TxState.init, delivered, numChunks]

theorem session_windowExact : WindowExact session := by
  constructor <;> simp [session, sending, waitState, State.powerOn, TxState.init]

/-- A stream of `2^31` bytes, one to a packet: the sender has no sequence number left and waits for the last ACK. -/
def exhausted (src : Bytes) : State :=
  waitState 1 1 (some 1) src { TxState.init with
    phase := .wait, base := 2147483647, nextSeqNum := 2147483648
    window := [(2147483647, streamPacket src 1 2147483647)], cursor := 2147483648, timerArmed := true, timerCnt := 30 }

theorem long_stream : ∃ src : Bytes, src.length = 2147483648 :=
  ⟨List.replicate 2147483648 0x41#8, List.length_replicate⟩

theorem exhausted_inv {src : Bytes} (h : src.length = 2147483648) : Inv (exhausted src) := by
  refine ⟨smallBuild_legal, ?_, rxInv_idle rfl rfl, channelInv_empty rfl rfl⟩
  constructor
  case legal => exact fun _ => by constructor <;> simp [exhausted, waitState, State.powerOn, smallBuild]
  all_goals simp [exhausted, waitState, State.powerOn, TxState.init, txFillMore, smallBuild, txCfg, numChunks, h]

/-! ## Witnesses: the hypotheses of each obligation, met together -/

theorem witness_DecodeOfEncodeIsIdentity : Instr.wellFormed smallBuild (.pktData 2#32 0xD191E1E1#32 chunk2) = true := by
  decide

theorem witness_EncodeOfDecodeIsIdentity : decode (.datagram .pktIn em3) = .ok (.pktEom 3#32) := by decide

/-- A code just below the TX codes' end, the first past it, and the last code. -/
theorem witness_ReservedSelectorHasNoTransition :
    ({ State.reset with inputs := [.event 0x16#8 ([] : Bytes).length []] } : State).inputs =
      .event 0x16#8 ([] : Bytes).length [] :: [] ∧
    0x16#8 ∉ [0x00#8, 0x01#8, 0x02#8, 0x03#8, 0x04#8, 0x10#8, 0x11#8, 0x12#8, 0x13#8, 0x14#8, 0x15#8, 0x20#8, 0x21#8,
      0x22#8, 0x23#8] := ⟨rfl, by decide⟩

theorem witness_CodecOperationsArePure :
    codecOp (.crc32 []) = true ∧ codecOp (.encPkt 0#32 0#32 []) = true ∧ codecOp (.decPkt []) = true ∧
    codecOp (.encAck 0#32) = true ∧ codecOp (.decAck []) = true := ⟨rfl, rfl, rfl, rfl, rfl⟩

/-- Seven and eight bytes, three and four. -/
theorem witness_FramingOperationResults :
    ([0#8, 0#8, 0#8, 0#8, 0#8, 0#8, 0#8] : Datagram).length < 8 ∧ ([0#8, 0#8, 0#8] : Datagram).length < 4 := by decide

/-- The ends of the number range, and the shortest packet. -/
theorem witness_FramingRoundTrips :
    ((-2147483648 : Int) ≤ -2147483648 ∧ (-2147483648 : Int) ≤ 2147483647) ∧
    ((-2147483648 : Int) ≤ 2147483647 ∧ (2147483647 : Int) ≤ 2147483647) ∧
    8 ≤ ([0#8, 0#8, 0#8, 0#8, 0#8, 0#8, 0#8, 0#8] : Datagram).length := by decide

theorem witness_CorruptedPacketIsAlwaysBadCrc : pk1[8]? = some 0x4B#8 ∧ chunk1 ≠ [] := by decide

theorem witness_ClassesOfADataDatagram :
    ([0#8, 0#8, 0#8, 0#8, 0xFF#8, 0#8, 0#8] : Datagram).length < 8 ∧
    em3.length = 9 ∧ em3.drop 4 = [0xFF#8, 0x00#8, 0x00#8, 0x00#8, 0xFF#8] := by decide

/-- A state in which each operation is enabled. -/
theorem witness_OperationsRunExactlyWhenEnabled :
    (Enabled (.crc32 []) State.reset ∧ Enabled (.encPkt 0#32 0#32 []) State.reset ∧ Enabled (.decPkt []) State.reset ∧
      Enabled (.encAck 0#32) State.reset ∧ Enabled (.decAck []) State.reset) ∧
    (Enabled .txReset State.reset ∧ Enabled .txStart State.reset ∧ Enabled (.txAck []) (sending 30) ∧
      Enabled (.ack 0#32 []) (sending 30) ∧ Enabled .txTick (sending 30) ∧ Enabled .txTimeout (sending 0) ∧
      Enabled .txIofault State.reset) ∧
    (Enabled .rxReset State.reset ∧ Enabled .rxStart State.reset ∧ Enabled (.rxPkt []) session ∧
      Enabled (.pktData 0#32 0#32 []) session ∧ Enabled (.pktEom 0#32) session ∧ Enabled .rxIofault session) :=
  ⟨⟨trivial, trivial, trivial, trivial, trivial⟩,
    ⟨trivial, rfl, rfl, rfl, ⟨rfl, by decide, rfl⟩, ⟨rfl, .inl rfl⟩, .inl rfl⟩,
    ⟨trivial, rfl, rfl, rfl, rfl, .inr rfl⟩⟩

/-- A state in which each conditional operation is not. -/
theorem witness_OperationsRunExactlyWhenEnabled_not :
    (¬ Enabled .txStart (sending 30) ∧ ¬ Enabled (.txAck []) State.reset ∧ ¬ Enabled (.ack 0#32 []) State.reset ∧
      ¬ Enabled .txTick (sending 0) ∧ ¬ Enabled .txTimeout (sending 5) ∧
      ¬ Enabled .txIofault { State.reset with tx := { TxState.init with phase := .gaveup } }) ∧
    (¬ Enabled .rxStart session ∧ ¬ Enabled (.rxPkt []) State.reset ∧ ¬ Enabled (.pktData 0#32 0#32 []) State.reset ∧
      ¬ Enabled (.pktEom 0#32) State.reset ∧
      ¬ Enabled .rxIofault { State.reset with rx := { RxState.init with phase := .done } }) := by
  refine ⟨⟨nofun, nofun, nofun, ?_, ?_, nofun⟩, ⟨nofun, nofun, nofun, nofun, nofun⟩⟩
  · exact fun h => absurd h.2.1 (by decide)
  · exact fun h => absurd h.2 (by decide)

theorem witness_TxIofaultStopsTheSender : State.reset.tx.phase = .idle ∧ (sending 30).tx.phase = .wait := ⟨rfl, rfl⟩

theorem witness_RxIofaultStopsTheReceiver : State.reset.rx.phase = .idle ∧ session.rx.phase = .listen := ⟨rfl, rfl⟩

theorem witness_OnlyResetLeavesATerminalPhase :
    (exec .rxStart { State.powerOn smallBuild (TxCfg.atPowerOn 2) { rws := 4#32 } with
        tx := { TxState.init with phase := .gaveup } } = .next (nextOf (exec .rxStart
          { State.powerOn smallBuild (TxCfg.atPowerOn 2) { rws := 4#32 } with
            tx := { TxState.init with phase := .gaveup } })) ∧ Instr.rxStart ≠ .txReset) ∧
    (exec .txTick { sending 30 with rx := { RxState.init with phase := .done } } =
      .next (nextOf (exec .txTick { sending 30 with rx := { RxState.init with phase := .done } })) ∧
      Instr.txTick ≠ .rxReset) :=
  ⟨⟨eq_next (by decide +kernel), nofun⟩, eq_next (by decide +kernel), nofun⟩

theorem witness_FaultCodesAreSticky :
    exec .txIofault session = .next (nextOf (exec .txIofault session)) ∧
    (nextOf (exec .txIofault session)).tx.fault ≠ session.tx.fault ∧
    exec .rxIofault session = .next (nextOf (exec .rxIofault session)) ∧
    (nextOf (exec .rxIofault session)).rx.fault ≠ session.rx.fault :=
  ⟨eq_next (by decide +kernel), by decide +kernel, eq_next (by decide +kernel), by decide +kernel⟩

/-- B4.16: `SWS = 0`, and a corrupt entry with bit 31 set; where every register is tested (R40), `CORRUPT_IDX` one past the
last entry, and such an entry past `CORRUPT_LEN`. -/
theorem witness_TxStartRejectsAnIllegalConfiguration :
    (∀ c, (idleState c).tx.phase = .idle) ∧
    ¬ TxConfigOk smallBuild (txCfg 10#32 0#32 1#32 0#32 [0#32, 0#32]) ∧
    ¬ TxConfigOk smallBuild (txCfg 10#32 4#32 1#32 1#32 [0x80000000#32, 0#32]) ∧
    ¬ TxConfigOk smallBuild { txCfg 10#32 4#32 1#32 0#32 [0#32, 0#32] with corruptIdx := 2#32 } ∧
    ¬ TxConfigOk smallBuild (txCfg 10#32 4#32 1#32 1#32 [0#32, 0x80000000#32]) := by
  refine ⟨fun _ => rfl, ?_, ?_, ?_, ?_⟩ <;> simp [TxConfigOk, txCfg, smallBuild]

/-- Where the latched values alone are tested (R142), the last two configurations are legal; where every register is, the
last entry is the last legal `CORRUPT_IDX`. -/
theorem witness_TxStartSendsTheFirstWindow_readings :
    TxConfigOk { smallBuild with startTest := .latchedValues }
      { txCfg 10#32 4#32 1#32 1#32 [0#32, 0x80000000#32] with corruptIdx := 2#32 } ∧
    TxConfigOk smallBuild { txCfg 10#32 4#32 1#32 0#32 [0#32, 0x7FFFFFFF#32] with corruptIdx := 1#32 } := by
  constructor <;> simp [TxConfigOk, txCfg, smallBuild]

/-- The configuration of B4.1: three chunks and the end-marker in a window of four. -/
theorem witness_TxStartSendsTheFirstWindow :
    Inv (idleState (txCfg 10#32 4#32 1#32 0#32 [0#32, 0#32])) ∧
    (idleState (txCfg 10#32 4#32 1#32 0#32 [0#32, 0#32])).tx.phase = .idle ∧
    TxConfigOk smallBuild (txCfg 10#32 4#32 1#32 0#32 [0#32, 0#32]) ∧ (4#32 : Word).toNat ≤ 2147483648 ∧
    10 = (10#32 : Word).toNat ∧ 3 = numChunks letters.length 10 ∧ 4 = min (4#32 : Word).toNat (3 + 1) := by
  refine ⟨idleState_inv _ rfl, rfl, ?_, by decide +kernel, by decide +kernel, by decide +kernel, by decide +kernel⟩
  simp [TxConfigOk, txCfg, smallBuild]

/-- The end of the stream, and one byte before it. -/
theorem witness_SrcReadTakesTheMostItCan :
    1 ≤ 10 ∧ 0 = min 10 ((ending none 0).src.length - (ending none 0).tx.cursor) ∧
    1 = min 10 ((sending 30).src.length - (sending 30).tx.cursor) := by decide

theorem witness_IgnoredAckReloadsTheTimer :
    Inv (sending 7) ∧ (sending 7).tx.phase = .wait ∧ ackDatagram (.txAck [0#8, 0#8, 5#8]) = some [0#8, 0#8, 5#8] ∧
    ¬ AckEnds [0#8, 0#8, 5#8] (sending 7) ∧ decAck [0#8, 0#8, 5#8] = none ∧
    ackDatagram (.ack 0xFFFFFFFF#32 []) = some (ackBytes 0xFFFFFFFF#32 []) ∧
    ¬ AckEnds (ackBytes 0xFFFFFFFF#32 []) (sending 7) ∧ decAck (ackBytes 0xFFFFFFFF#32 []) = some (-1) ∧
    (-1 : Int) < (sending 7).tx.base :=
  ⟨sending_inv (by decide), rfl, rfl, fun h => absurd h.1 (by decide), rfl, rfl, fun h => absurd h.1 (by decide),
    by decide, by decide⟩

/-- An advancing ACK, and, with `base` above the end-marker's number (B4.13), a stale one. -/
theorem witness_AckOfTheEndMarkerEndsTheSession :
    ((ending none 30).tx.phase = .wait ∧ ackDatagram (.ack 0#32 []) = some ack0 ∧ AckEnds ack0 (ending none 30) ∧
      decAck ack0 = some 0 ∧ ((ending none 30).tx.base : Int) ≤ 0) ∧
    (let s := waitState 10 2 (some 1) letters { tx46 with base := 10, window := [(2, rec2), (3, rec3)] }
     s.tx.phase = .wait ∧ AckEnds [0#8, 0#8, 0#8, 2#8] s ∧ decAck [0#8, 0#8, 0#8, 2#8] = some 2 ∧
      (2 : Int) < s.tx.base) :=
  ⟨⟨rfl, rfl, ⟨rfl, .inr ⟨0, rfl, by decide, by decide⟩⟩, rfl, by decide⟩,
    ⟨rfl, ⟨rfl, .inl (by decide)⟩, rfl, by decide⟩⟩

/-- A session that goes on, and one that has no number left. -/
theorem witness_AckAdvancesAndRefills :
    (Inv (sending 30) ∧ (sending 30).tx.phase = .wait ∧ ackDatagram (.txAck ack0) = some ack0 ∧
      decAck ack0 = some 0 ∧ ((sending 30).tx.base : Int) ≤ 0 ∧ ¬ AckEnds ack0 (sending 30)) ∧
    ∃ src, Inv (exhausted src) ∧ (exhausted src).tx.phase = .wait ∧
      decAck [0x7F#8, 0xFF#8, 0xFF#8, 0xFF#8] = some 2147483647 ∧ ((exhausted src).tx.base : Int) ≤ 2147483647 ∧
      ¬ AckEnds [0x7F#8, 0xFF#8, 0xFF#8, 0xFF#8] (exhausted src) :=
  long_stream.elim fun src hs =>
    ⟨⟨sending_inv (Nat.le_refl 30), rfl, rfl, rfl, by decide, fun h => absurd h.1 (by decide)⟩,
      src, exhausted_inv hs, rfl, by decide, Int.le_refl 2147483647, fun h => nomatch h.1⟩

/-- B4.14. -/
theorem witness_SeqExhaustedStopsTheSender :
    ∃ src, Inv (exhausted src) ∧ (exhausted src).tx.phase = .wait ∧
      ackDatagram (.txAck [0x7F#8, 0xFF#8, 0xFF#8, 0xFF#8]) = some [0x7F#8, 0xFF#8, 0xFF#8, 0xFF#8] ∧
      decAck [0x7F#8, 0xFF#8, 0xFF#8, 0xFF#8] = some 2147483647 ∧ ((exhausted src).tx.base : Int) ≤ 2147483647 ∧
      (exhausted src).tx.eomQueued = false ∧ (exhausted src).tx.nextSeqNum = 2147483648 ∧
      ((exhausted src).tx.window.filter (fun e => decide ((2147483647 : Int) + 1 ≤ e.1))).length <
        (exhausted src).txPar.sws :=
  long_stream.elim fun src hs =>
    ⟨src, exhausted_inv hs, rfl, rfl, by decide, Int.le_refl 2147483647, rfl, rfl, by simp [exhausted, waitState]⟩

theorem witness_AckIsCumulative :
    Inv (sending 30) ∧ ackDatagram (.ack 0#32 []) = some ack0 ∧ decAck ack0 = some 0 ∧
    ((sending 30).tx.base : Int) ≤ 0 ∧ (0 : Int) < (sending 30).tx.nextSeqNum ∧
    exec (.ack 0#32 []) (sending 30) = .next (nextOf (exec (.ack 0#32 []) (sending 30))) :=
  ⟨sending_inv (Nat.le_refl 30), rfl, rfl, by decide, by decide, eq_next (by decide +kernel)⟩

/-- A timeout that gives up (the first of `FINAL_TIMEOUTS = 1`), one of two, and one before the end-marker. -/
theorem witness_TimeoutRetransmitsTheWindow :
    (Inv (ending (some 1) 0) ∧ Enabled .txTimeout (ending (some 1) 0) ∧ TimeoutEnds (ending (some 1) 0)) ∧
    (Inv (ending (some 2) 0) ∧ Enabled .txTimeout (ending (some 2) 0) ∧ ¬ TimeoutEnds (ending (some 2) 0)) ∧
    (Inv (sending 0) ∧ Enabled .txTimeout (sending 0) ∧ ¬ TimeoutEnds (sending 0)) := by
  refine ⟨⟨ending_inv (by decide) (by simp), ⟨rfl, .inl rfl⟩, rfl, 1, rfl, by decide⟩,
    ⟨ending_inv (by decide) (by simp), ⟨rfl, .inl rfl⟩, fun h => ?_⟩,
    sending_inv (by decide), ⟨rfl, .inl rfl⟩, fun h => absurd h.1 (by decide)⟩
  obtain ⟨n, hn, hle⟩ := h.2
  cases hn
  exact absurd hle (by decide)

/-- The last tick. -/
theorem witness_TickCountsDown :
    (sending 1).tx.phase = .wait ∧ 0 < (sending 1).tx.timerCnt ∧ (sending 1).build.timed = true :=
  ⟨rfl, by decide, rfl⟩

theorem witness_TimeoutComesAfterExactlyTheLoadedTicks :
    (sending 30).tx.phase = .wait ∧ (sending 30).build.timed = true ∧ 29 < (sending 30).tx.timerCnt :=
  ⟨rfl, rfl, by decide⟩

/-- The same sender in the untimed reading, its count at another value; a tick and a timeout. -/
theorem witness_UntimedReadingRefinesTheTimedOne :
    let u (s : State) : State := { s with build := { s.build with timed := false }, tx := { s.tx with timerCnt := 9 } }
    (Untimed (sending 30) (u (sending 30)) ∧ exec .txTick (sending 30) = .next (nextOf (exec .txTick (sending 30)))) ∧
    (Untimed (sending 0) (u (sending 0)) ∧
      exec .txTimeout (sending 0) = .next (nextOf (exec .txTimeout (sending 0))) ∧ Instr.txTimeout ≠ .txTick) :=
  ⟨⟨⟨rfl, rfl⟩, eq_next (by decide +kernel)⟩, ⟨rfl, rfl⟩,
    eq_next (by decide +kernel), nofun⟩

theorem witness_TxPhaseTransitions :
    Inv (ending (some 1) 0) ∧ (ending (some 1) 0).build.maxSws ≤ 2147483648 ∧
    exec .txTimeout (ending (some 1) 0) = .next (nextOf (exec .txTimeout (ending (some 1) 0))) :=
  ⟨ending_inv (by decide) (by simp), by decide, eq_next (by decide +kernel)⟩

theorem witness_SenderCountersNeverDecrease :
    exec (.txAck ack0) (sending 30) = .next (nextOf (exec (.txAck ack0) (sending 30))) ∧ Instr.txAck ack0 ≠ .txReset ∧
    (ending none 0).tx.eomQueued = true ∧
    exec .txTimeout (ending none 0) = .next (nextOf (exec .txTimeout (ending none 0))) :=
  ⟨eq_next (by decide +kernel), nofun, rfl, eq_next (by decide +kernel)⟩

theorem witness_RxStartOpensTheWindow :
    (State.powerOn smallBuild (TxCfg.atPowerOn 2) { rws := 4#32 }).rx.phase = .idle ∧
    RxConfigOk smallBuild { rws := 1#32 } ∧ RxConfigOk smallBuild { rws := 4#32 } ∧
    ¬ RxConfigOk smallBuild { rws := 0#32 } ∧ ¬ RxConfigOk smallBuild { rws := 5#32 } := by
  refine ⟨rfl, ?_, ?_, ?_, ?_⟩ <;> unfold RxConfigOk <;> decide

/-- Malformed, corrupted, and out of the window on both sides. -/
theorem witness_RejectedDatagramIsReAcked :
    session.rx.phase = .listen ∧
    (dataDatagram (.rxPkt []) = some [] ∧ classify 0 4 [] = .malformed) ∧
    (dataDatagram (.pktData 1#32 0xFF000001#32 [0xFF#8]) = some (pktDataBytes 1#32 0xFF000001#32 [0xFF#8]) ∧
      classify 0 4 (pktDataBytes 1#32 0xFF000001#32 [0xFF#8]) = .badcrc) ∧
    classify 0 4 (pktDataBytes 0#32 0x59BC5767#32 [0x5A#8]) = .oow ∧
    classify 0 4 (pktDataBytes 5#32 0x59BC5767#32 [0x5A#8]) = .oow := by decide +kernel

theorem witness_EndMarkerEndsTheReceiver :
    session.rx.phase = .listen ∧ dataDatagram (.rxPkt em3) = some em3 ∧
    classify session.rx.lfr session.rx.laf em3 = .eom ∧ dataDatagram (.pktEom 99#32) = some (pktEomBytes 99#32) := by
  decide +kernel

/-- The number `LFR + 1`, the last one of the window, and one that the buffer already holds; the buffer is in canonical
form. -/
theorem witness_AcceptedPacketIsBufferedAndDrained :
    (session.rx.phase = .listen ∧ Store.WF session.rx.buf ∧ dataDatagram (.rxPkt packetBB) = some packetBB ∧
      classify session.rx.lfr session.rx.laf packetBB = .accept 1 [0x42#8, 0x42#8]) ∧
    classify session.rx.lfr session.rx.laf (pktDataBytes 4#32 0x59BC5767#32 [0x5A#8]) = .accept 4 [0x5A#8] ∧
    classify session.rx.lfr session.rx.laf (encPkt (mkPkt 2 [0x5A#8])) = .accept 2 [0x5A#8] ∧
    (2, [0x43#8, 0x43#8]) ∈ session.rx.buf :=
  ⟨⟨rfl, session_inv.rx.buf_wf, rfl, by decide +kernel⟩, by decide +kernel, by decide +kernel, by decide⟩

theorem witness_BufferedPacketIsNotAcknowledged :
    Inv session ∧ session.rx.phase = .listen ∧
    dataDatagram (.pktData 4#32 0x59BC5767#32 [0x5A#8]) = some (pktDataBytes 4#32 0x59BC5767#32 [0x5A#8]) ∧
    classify session.rx.lfr session.rx.laf (pktDataBytes 4#32 0x59BC5767#32 [0x5A#8]) = .accept 4 [0x5A#8] ∧
    (4 : Int) ≠ session.rx.lfr + 1 :=
  ⟨session_inv, rfl, rfl, by decide +kernel, by decide⟩

theorem witness_ReceiverOnlyMovesForward :
    exec (.rxPkt packetBB) session = .next (nextOf (exec (.rxPkt packetBB) session)) ∧
    Instr.rxPkt packetBB ≠ .rxReset :=
  ⟨eq_next (by decide +kernel), nofun⟩

theorem witness_RxPhaseTransitions :
    exec (.pktEom 3#32) session = .next (nextOf (exec (.pktEom 3#32) session)) ∧
    exec (.rxPkt packetBB) session = .next (nextOf (exec (.rxPkt packetBB) session)) :=
  ⟨eq_next (by decide +kernel), eq_next (by decide +kernel)⟩

theorem witness_TxOperationsFrame :
    txOp (.ack 0#32 []) = true ∧ exec (.ack 0#32 []) session = .next (nextOf (exec (.ack 0#32 []) session)) ∧
    ackDatagram (.ack 0#32 []) = some ack0 ∧ txOp .txTick = true ∧ ackDatagram .txTick = none ∧
    exec .txTick session = .next (nextOf (exec .txTick session)) :=
  ⟨rfl, eq_next (by decide +kernel), rfl, rfl, rfl, eq_next (by decide +kernel)⟩

theorem witness_RxOperationsFrame :
    rxOp (.rxPkt packetBB) = true ∧ exec (.rxPkt packetBB) session = .next (nextOf (exec (.rxPkt packetBB) session)) ∧
    dataDatagram (.rxPkt packetBB) = some packetBB ∧ rxOp .rxReset = true ∧ dataDatagram .rxReset = none ∧
    exec .rxReset session = .next (nextOf (exec .rxReset session)) :=
  ⟨rfl, eq_next (by decide +kernel), rfl, rfl, rfl, eq_next (by decide +kernel)⟩

/-- Two states with one sender and different receivers, and the other way round. -/
theorem witness_EnginesShareNothing :
    (txOp (.ack 0#32 []) = true ∧ TxSame session (sending 30) ∧
      exec (.ack 0#32 []) session = .next (nextOf (exec (.ack 0#32 []) session))) ∧
    (rxOp (.rxPkt packetBB) = true ∧ RxSame session { session with tx := TxState.init, out := [0x41#8] } ∧
      exec (.rxPkt packetBB) session = .next (nextOf (exec (.rxPkt packetBB) session))) :=
  ⟨⟨rfl, ⟨rfl, rfl, rfl, rfl, rfl⟩, eq_next (by decide +kernel)⟩, rfl, ⟨rfl, rfl, rfl, rfl⟩, eq_next (by decide +kernel)⟩

theorem witness_EngineOperationsCommute :
    txOp (.ack 0#32 []) = true ∧ rxOp (.rxPkt packetBB) = true ∧ ChannelInv session ∧
    ackDatagram (.ack 0#32 []) = some ack0 ∧ ack0 ∈ session.reverse ∧
    dataDatagram (.rxPkt packetBB) = some packetBB ∧ packetBB ∈ session.forward ∧
    exec (.ack 0#32 []) session = .next (nextOf (exec (.ack 0#32 []) session)) ∧
    exec (.rxPkt packetBB) session = .next (nextOf (exec (.rxPkt packetBB) session)) :=
  ⟨rfl, rfl, session_inv.channels, rfl, .head _, rfl, .head _, eq_next (by decide +kernel),
    eq_next (by decide +kernel)⟩

theorem witness_ConfigurationIsLatchedAtStart :
    exec .txTick (sending 30) = .next (nextOf (exec .txTick (sending 30))) ∧ Instr.txTick ≠ .txStart ∧
    Instr.txTick ≠ .rxStart :=
  ⟨eq_next (by decide +kernel), nofun, nofun⟩

theorem witness_StepRunsTheDecodedInstruction :
    (({ session with inputs := [.event 0x14#8 0 []] } : State).inputs = .event 0x14#8 0 [] :: [] ∧
      decode (.event 0x14#8 0 []) = .ok .txTick ∧ Instr.txTick.wellFormed session.build = true) ∧
    (({ session with inputs := [.deliver .ackIn ack0] } : State).inputs = .deliver .ackIn ack0 :: [] ∧
      ack0 ∈ session.channel .ackIn ∧ decode (.datagram .ackIn ack0) = .ok (.ack 0#32 []) ∧
      (Instr.ack 0#32 []).wellFormed session.build = true) ∧ session.inputs = [] :=
  ⟨⟨rfl, by decide, rfl⟩, ⟨rfl, .head _, by decide, by decide⟩, rfl⟩

theorem witness_DeliveryIsTheArrivalOperation :
    (packetBB.length ≤ session.build.maxPayload + 8 ∧ packetBB ∈ session.forward ∧
      step { session with inputs := [.deliver .pktIn packetBB] } =
        .next (nextOf (step { session with inputs := [.deliver .pktIn packetBB] }))) ∧
    (ack0.length ≤ session.build.maxPayload + 8 ∧ ack0 ∈ session.reverse ∧ ack0 ∉ session.forward ∧
      step { session with inputs := [.deliver .ackIn ack0] } =
        .next (nextOf (step { session with inputs := [.deliver .ackIn ack0] }))) :=
  ⟨⟨by decide, .head _, eq_next (by decide +kernel)⟩,
    ⟨by decide, .head _, by decide, eq_next (by decide +kernel)⟩⟩

/-- The longest datagram a port can present. -/
theorem witness_ChannelMoves :
    ack0 ∈ session.channel .ackIn ∧
    ({ session with inputs := [.drop .ackIn ack0] } : State).inputs = .drop .ackIn ack0 :: [] ∧
    ({ session with inputs := [.duplicate .ackIn ack0] } : State).inputs = .duplicate .ackIn ack0 :: [] ∧
    ({ session with inputs := [.corrupt .ackIn ack0 (List.replicate 24 0#8)] } : State).inputs =
      .corrupt .ackIn ack0 (List.replicate 24 0#8) :: [] ∧
    (List.replicate 24 0#8 : Datagram).length ≤ session.build.maxPayload + 8 :=
  ⟨.head _, rfl, rfl, rfl, by decide⟩

theorem witness_HostReadsTheRegisters :
    Inv { session with inputs := [.hostRead 0x16#8] } ∧
    ({ session with inputs := [.hostRead 0x16#8] } : State).inputs = .hostRead 0x16#8 :: [] ∧
    session.txCfg.corruptList[session.txCfg.corruptIdx.toNat]? = some 0#32 :=
  ⟨⟨session_inv.build, session_inv.tx.congr rfl rfl rfl rfl rfl, session_inv.rx.congr rfl rfl rfl,
    session_inv.channels.1, session_inv.channels.2, session_inv.channels.3, session_inv.channels.4⟩, rfl, rfl⟩

/-- A `CORRUPT_VAL` write to an idle sender with a list of two entries. -/
def corruptWrite (idx : Word) : State :=
  { idleState { txCfg 10#32 4#32 1#32 0#32 [5#32, 6#32] with corruptIdx := idx } with inputs := [.hostWrite 0x16#8 7#32] }

/-- A write in IDLE, one in `TX_WAIT` and `RX_LISTEN`, and `CORRUPT_VAL` at its last entry and one past it. -/
theorem witness_HostWritesOnlyInIdle :
    (({ State.reset with inputs := [.hostWrite 0x10#8 10#32] } : State).inputs = .hostWrite 0x10#8 10#32 :: [] ∧
      State.reset.tx.phase = .idle ∧ State.reset.rx.phase = .idle) ∧
    (({ session with inputs := [.hostWrite 0x20#8 1#32] } : State).inputs = .hostWrite 0x20#8 1#32 :: [] ∧
      session.tx.phase ≠ .idle ∧ session.rx.phase ≠ .idle) ∧
    ((corruptWrite 1#32).inputs = .hostWrite 0x16#8 7#32 :: [] ∧ (corruptWrite 1#32).tx.phase = .idle ∧
      (nextOf (step (corruptWrite 1#32))).txCfg.corruptList = [5#32, 7#32]) ∧
    ((corruptWrite 2#32).inputs = .hostWrite 0x16#8 7#32 :: [] ∧ (corruptWrite 2#32).tx.phase = .idle ∧
      (nextOf (step (corruptWrite 2#32))).txCfg.corruptList = [5#32, 6#32]) :=
  ⟨⟨rfl, rfl, rfl⟩, ⟨rfl, nofun, nofun⟩, ⟨rfl, rfl, by decide +kernel⟩, ⟨rfl, rfl, by decide +kernel⟩⟩

theorem witness_StreamsAreFixedForTheSession :
    step { session with inputs := [.deliver .pktIn packetBB] } =
      .next (nextOf (step { session with inputs := [.deliver .pktIn packetBB] })) ∧
    session.tx.phase ≠ .idle ∧ session.rx.phase ≠ .idle :=
  ⟨eq_next (by decide +kernel), nofun, nofun⟩

/-- The smallest legal build, and that of `State.reset`. -/
theorem witness_PowerOnMeetsTheInvariant :
    ({ maxPayload := 1, maxSws := 1, maxRws := 1, maxCorrupt := 0, timed := false, startTest := .latchedValues } : Config.Build).Legal ∧
    (TxCfg.atPowerOn 0).corruptList.length = 0 ∧ Config.defaultBuild.Legal := by decide

theorem witness_StepKeepsTheInvariant : Inv session ∧ step session = .next session ∧
    step { session with inputs := [.deliver .ackIn ack0] } =
      .next (nextOf (step { session with inputs := [.deliver .ackIn ack0] })) :=
  ⟨session_inv, rfl, eq_next (by decide +kernel)⟩

theorem witness_AckSaneStepsKeepTheWindowExact :
    Inv session ∧ WindowExact session ∧ AckSane { session with inputs := [.deliver .ackIn ack0] } ∧
    step { session with inputs := [.deliver .ackIn ack0] } =
      .next (nextOf (step { session with inputs := [.deliver .ackIn ack0] })) := by
  refine ⟨session_inv, session_windowExact, fun i rest d a hi hd ha => ?_,
    eq_next (by decide +kernel)⟩
  cases hi
  cases hd
  cases ha
  decide

theorem witness_HonestStepsKeepDeliveryInOrder :
    Inv honestSession ∧ Honest honestSession ∧
    HonestInput { honestSession with inputs := [.deliver .pktIn (encPkt (mkPkt 0 [0x41#8]))] } ∧
    step { honestSession with inputs := [.deliver .pktIn (encPkt (mkPkt 0 [0x41#8]))] } =
      .next (nextOf (step { honestSession with inputs := [.deliver .pktIn (encPkt (mkPkt 0 [0x41#8]))] })) := by
  refine ⟨honestSession_inv, honestSession_honest, fun i rest hi => ?_,
    eq_next (by decide +kernel)⟩
  cases hi
  trivial

theorem witness_DeliveredBytesAreAPrefixOfTheSource :
    Inv honestSession ∧ Honest honestSession ∧
    HonestInput { honestSession with inputs := [.deliver .pktIn (encPkt (mkPkt 0 [0x41#8]))] } ∧
    step { honestSession with inputs := [.deliver .pktIn (encPkt (mkPkt 0 [0x41#8]))] } =
      .next (nextOf (step { honestSession with inputs := [.deliver .pktIn (encPkt (mkPkt 0 [0x41#8]))] })) ∧
    (nextOf (step { honestSession with inputs := [.deliver .pktIn (encPkt (mkPkt 0 [0x41#8]))] })).out = [0x41#8] :=
  have h := witness_HonestStepsKeepDeliveryInOrder
  ⟨h.1, h.2.1, h.2.2.1, h.2.2.2, by decide +kernel⟩

/-- Both stores hold an entry, the window's record under its own number. -/
theorem witness_StorePrimitivesAreMapOperations :
    Store.WF session.tx.window ∧ Store.WF session.rx.buf ∧ (∀ e ∈ session.tx.window, e.2.seq = e.1) ∧
    session.tx.window ≠ [] ∧ (2, [0x43#8, 0x43#8]) ∈ session.rx.buf :=
  ⟨session_inv.tx.window_wf, session_inv.rx.buf_wf, by decide +kernel, nofun, by decide⟩

/-- Both inputs in the phases that take them, and in those that do not. -/
theorem witness_HostSuppliesTheStreamsBeforeStart :
    (({ State.reset with inputs := [.hostSource [0x41#8]] } : State).inputs = .hostSource [0x41#8] :: [] ∧
      ({ State.reset with inputs := [.hostSink] } : State).inputs = .hostSink :: [] ∧
      State.reset.tx.phase = .idle ∧ State.reset.rx.phase = .idle) ∧
    (({ session with inputs := [.hostSource [0x41#8]] } : State).inputs = .hostSource [0x41#8] :: [] ∧
      ({ session with inputs := [.hostSink] } : State).inputs = .hostSink :: [] ∧
      session.tx.phase ≠ .idle ∧ session.rx.phase ≠ .idle) :=
  ⟨⟨rfl, rfl, rfl, rfl⟩, ⟨rfl, rfl, nofun, nofun⟩⟩

end Sys2Proof.Tests
end

/-! PROOFS. What an operation of one engine does is one effect, which that engine alone fixes (R20); the effects of the
two engines commute (R15, R76). -/

namespace Sys2Proof.Machine

/-! ## Several copies at once -/

/-- The datagrams `ds` put in flight, one after the other. -/
def Channel.addAll (ds : List Datagram) (c : Channel) : Channel :=
  ds.foldl (fun c d => Channel.add d c) c

/-- The datagram an operation works on, if any, taken out. -/
def Channel.removeOperand (o : Option Datagram) (c : Channel) : Channel :=
  match o with
  | none => c
  | some d => Channel.remove d c

theorem Channel.addAll_append (ds es : List Datagram) (c : Channel) :
    Channel.addAll (ds ++ es) c = Channel.addAll es (Channel.addAll ds c) :=
  List.foldl_append

/-- A datagram in flight may be taken before or after another one is sent: the canonical form forgets the order. -/
theorem Channel.remove_add {d e : Datagram} {c : Channel} (hc : Channel.WF c) (hd : d ∈ c) :
    Channel.remove d (Channel.add e c) = Channel.add e (Channel.remove d c) := by
  have hperm : (d :: Channel.remove d (Channel.add e c)).Perm (d :: Channel.add e (Channel.remove d c)) :=
    calc (d :: Channel.remove d (Channel.add e c)).Perm (Channel.add e c) :=
          (Channel.remove_perm (Channel.mem_add.2 (.inr hd))).symm
      List.Perm _ (e :: c) := Channel.add_perm e c
      List.Perm _ (e :: d :: Channel.remove d c) := (Channel.remove_perm hd).cons e
      List.Perm _ (d :: e :: Channel.remove d c) := .swap d e _
      List.Perm _ (d :: Channel.add e (Channel.remove d c)) := ((Channel.add_perm e _).symm).cons d
  exact Channel.eq_of_perm (Channel.remove_wf (Channel.add_wf hc)) (Channel.add_wf (Channel.remove_wf hc))
    hperm.cons_inv

theorem Channel.remove_addAll {d : Datagram} (ds : List Datagram) {c : Channel} (hc : Channel.WF c) (hd : d ∈ c) :
    Channel.remove d (Channel.addAll ds c) = Channel.addAll ds (Channel.remove d c) := by
  induction ds generalizing c with
  | nil => rfl
  | cons e ds ih =>
    calc Channel.remove d (Channel.addAll ds (Channel.add e c))
        = Channel.addAll ds (Channel.remove d (Channel.add e c)) := ih (Channel.add_wf hc) (Channel.mem_add.2 (.inr hd))
      _ = Channel.addAll ds (Channel.add e (Channel.remove d c)) := by rw [Channel.remove_add hc hd]

theorem Channel.removeOperand_addAll {o : Option Datagram} (ds : List Datagram) {c : Channel} (hc : Channel.WF c)
    (ho : ∀ d, o = some d → d ∈ c) :
    Channel.removeOperand o (Channel.addAll ds c) = Channel.addAll ds (Channel.removeOperand o c) := by
  cases o with
  | none => rfl
  | some d => exact Channel.remove_addAll ds hc (ho d rfl)

/-! ## Effects that one side of the state fixes -/

/-- One side of the machine: when two states agree on its registers, and what it can do to a state.  Effects compose,
keep the agreement, and say what the trace line is. -/
structure Side where
  Same : State → State → Prop
  Effect : Type
  apply : Effect → State → State
  seq : Effect → Effect → Effect
  same_apply : ∀ (e : Effect) {s u : State}, Same s u → Same (apply e s) (apply e u)
  last_apply : ∀ (e : Effect) (s u : State), (apply e u).last = (apply e s).last
  apply_seq : ∀ (e e' : Effect) (u : State), apply (seq e e') u = apply e' (apply e u)

/-- `p` reads nothing but this side. -/
def Side.Reads (E : Side) {α : Type} (p : State → α) : Prop :=
  ∀ s u, E.Same s u → p u = p s

/-- `f` has one and the same effect on all states that agree on this side and on the trace line it goes on writing. -/
def Side.Local (E : Side) (f : State → State) : Prop :=
  ∀ s, ∃ e, ∀ u, E.Same s u → u.last = s.last → f u = E.apply e u

namespace Side

variable {E : Side} {f g : State → State}

theorem Local.comp (hg : E.Local g) (hf : E.Local f) : E.Local fun s => g (f s) := by
  intro s
  obtain ⟨e, he⟩ := hf s
  obtain ⟨e', he'⟩ := hg (E.apply e s)
  exact ⟨E.seq e e', fun u hu hl =>
    calc g (f u) = g (E.apply e u) := by rw [he u hu hl]
      _ = E.apply e' (E.apply e u) := he' _ (E.same_apply e hu) (E.last_apply e s u)
      _ = E.apply (E.seq e e') u := (E.apply_seq e e' u).symm⟩

/-- A parameter read from this side keeps a family of local functions local. -/
theorem Local.read {α : Type} {p : State → α} {F : α → State → State} (hp : E.Reads p) (hF : ∀ x, E.Local (F x)) :
    E.Local fun s => F (p s) s := by
  intro s
  obtain ⟨e, he⟩ := hF (p s) s
  exact ⟨e, fun u hu hl => (congrArg (F · u) (hp s u hu)).trans (he u hu hl)⟩

/-- A case distinction on what is read from this side. -/
theorem Local.of_cases {k : State → State} {c : State → Prop} (hc : E.Reads c) (hf : E.Local f) (hg : E.Local g)
    (hk : ∀ s, (c s ∧ k s = f s) ∨ (¬ c s ∧ k s = g s)) : E.Local k := by
  intro s
  rcases hk s with ⟨hs, -⟩ | ⟨hs, -⟩
  · obtain ⟨e, he⟩ := hf s
    refine ⟨e, fun u hu hl => ?_⟩
    rcases hk u with ⟨-, h⟩ | ⟨hn, -⟩
    · rw [h, he u hu hl]
    · exact absurd hs (by rwa [hc s u hu] at hn)
  · obtain ⟨e, he⟩ := hg s
    refine ⟨e, fun u hu hl => ?_⟩
    rcases hk u with ⟨hn, -⟩ | ⟨-, h⟩
    · exact absurd (by rwa [hc s u hu] at hn) hs
    · rw [h, he u hu hl]

theorem Local.ite {c : State → Prop} [DecidablePred c] (hc : E.Reads c) (hf : E.Local f) (hg : E.Local g) :
    E.Local fun s => if c s then f s else g s :=
  .of_cases hc hf hg fun s => by
    by_cases h : c s
    · exact .inl ⟨h, if_pos h⟩
    · exact .inr ⟨h, if_neg h⟩

end Side

/-! ## The sender's side -/

/-- What an operation of TX leaves behind: its registers, its latched parameters, what it sent and the trace line. -/
structure TxEffect where
  tx : TxState
  txPar : TxParams
  sent : List Datagram
  last : Reply

/-- The effect on a state: the packets sent join the forward channel (R72). -/
def TxEffect.apply (e : TxEffect) (s : State) : State :=
  { s with
    tx := e.tx
    txPar := e.txPar
    pktOut := s.pktOut ++ e.sent
    forward := Channel.addAll e.sent s.forward
    last := e.last }

/-- The sender: what an operation of TX reads and does, but for the ACK it takes (R20). -/
def txSide : Side where
  Same := TxSame
  Effect := TxEffect
  apply := TxEffect.apply
  seq e e' := { e' with sent := e.sent ++ e'.sent }
  same_apply _ _ _ h := ⟨h.build, rfl, rfl, h.txCfg, h.src⟩
  last_apply _ _ _ := rfl
  apply_seq e e' u := by simp [TxEffect.apply, Channel.addAll_append]

theorem TxSame.eq_update {s u : State} (h : TxSame s u) :
    u = { u with build := s.build, tx := s.tx, txPar := s.txPar, txCfg := s.txCfg, src := s.src } := by
  rw [← h.build, ← h.tx, ← h.txPar, ← h.txCfg, ← h.src]

/-- What is computed from the sender's fields is read from the sender's side. -/
theorem txSide_reads {α : Type} {p : State → α}
    (hp : ∀ s u : State,
      p { u with build := s.build, tx := s.tx, txPar := s.txPar, txCfg := s.txCfg, src := s.src } = p s) :
    txSide.Reads p :=
  fun s u h => (congrArg p h.eq_update).trans (hp s u)

/-- An effect read off one state, which every state that agrees on the sender shows. -/
theorem txLocal_of_effect {f : State → State} (e : State → TxEffect)
    (he : ∀ s u, TxSame s u → u.last = s.last → f u = (e s).apply u) : txSide.Local f :=
  fun s => ⟨e s, he s⟩

theorem update_txLocal {r : State → TxState} {q : State → TxParams}
    (hr : txSide.Reads r := by exact txSide_reads fun _ _ => rfl)
    (hq : txSide.Reads q := by exact txSide_reads fun _ _ => rfl) :
    txSide.Local fun s => { s with tx := r s, txPar := q s } :=
  txLocal_of_effect (fun s => ⟨r s, q s, [], s.last⟩) fun s u h hl => by
    simp [TxEffect.apply, Channel.addAll, hr s u h, hq s u h, ← hl]

theorem setLabels_txLocal (ls : List Label) : txSide.Local (setLabels ls) :=
  txLocal_of_effect (fun s => ⟨s.tx, s.txPar, [], { s.last with labels := ls }⟩) fun s u h hl => by
    simp [TxEffect.apply, Channel.addAll, setLabels, ← h.tx, ← h.txPar, ← hl]

theorem emitPkt_txLocal (d : Datagram) : txSide.Local (emit .pktOut d) :=
  txLocal_of_effect (fun s => ⟨s.tx, s.txPar, [d], { s.last with effects := s.last.effects ++ [.pktOut d] }⟩)
    fun s u h hl => by
      simp [TxEffect.apply, Channel.addAll, emit, recordEffect, ← h.tx, ← h.txPar, ← hl]

/-- An update of the sender's registers alone; that the new values are read from the sender is by computation. -/
theorem updateTx_txLocal {r : State → TxState} (hr : txSide.Reads r := by exact txSide_reads fun _ _ => rfl) :
    txSide.Local fun s => { s with tx := r s } :=
  update_txLocal hr

theorem id_txLocal : txSide.Local fun s => s :=
  updateTx_txLocal (r := fun s => s.tx)

theorem raise_txLocal (f : FatalFault) : txSide.Local (raise .tx f) :=
  (setLabels_txLocal _).comp updateTx_txLocal

theorem resetEngine_txLocal : txSide.Local (resetEngine .tx) :=
  (setLabels_txLocal _).comp updateTx_txLocal

theorem loadTimer_txLocal : txSide.Local loadTimer :=
  updateTx_txLocal

theorem endSession_txLocal (ph : TxPhase) : txSide.Local (endSession ph) :=
  updateTx_txLocal

theorem txTickBody_txLocal : txSide.Local txTickBody :=
  (setLabels_txLocal _).comp updateTx_txLocal

/-! ### TX_FILL -/

theorem sendNew_txLocal (p : Packet) : txSide.Local (sendNew p) :=
  (updateTx_txLocal (r := fun s => { s.tx with nextSeqNum := s.tx.nextSeqNum + 1 })).comp
    (.read (p := fun s => firstTransmission s.txPar.corruptSet p) (F := fun d s => emit .pktOut d (winPut p s))
      (txSide_reads fun _ _ => rfl)
      fun d => (emitPkt_txLocal d).comp updateTx_txLocal)

/-- A packet made from what the sender reads, sent after an update of its registers. -/
theorem sendNew_update_txLocal {p : State → Packet} {r : State → TxState} (hp : txSide.Reads p)
    (hr : txSide.Reads r) : txSide.Local fun s => sendNew (p s) { s with tx := r s } :=
  .read (F := fun p s => sendNew p { s with tx := r s }) hp fun p => (sendNew_txLocal p).comp (updateTx_txLocal hr)

theorem txFillOne_txLocal : txSide.Local txFillOne :=
  .of_cases (c := fun s => srcChunk s.txPar.pktSize s ≠ []) (txSide_reads fun _ _ => rfl)
    (sendNew_update_txLocal (txSide_reads fun _ _ => rfl) (txSide_reads fun _ _ => rfl))
    (sendNew_update_txLocal (txSide_reads fun _ _ => rfl) (txSide_reads fun _ _ => rfl))
    fun s => (txFillOne_cases s).imp_right fun ⟨hnil, he⟩ => ⟨not_not.2 hnil, he⟩

theorem txFillLoop_txLocal {k : State → State} (hk : txSide.Local k) (fuel : Nat) :
    txSide.Local fun s => (txFillLoop fuel s).andThen k := by
  induction fuel with
  | zero => exact hk
  | succ fuel ih =>
    have hstep : (fun s => (txFillLoop (fuel + 1) s).andThen k) = fun s =>
        if txFillMore s = true then
          if seqMax < s.tx.nextSeqNum then raise .tx .seqExhausted s else (txFillLoop fuel (txFillOne s)).andThen k
        else k s := by
      funext s
      simp only [txFillLoop]
      split
      · split <;> rfl
      · rfl
    rw [hstep]
    exact .ite (txSide_reads fun _ _ => rfl)
      (.ite (txSide_reads fun _ _ => rfl) (raise_txLocal _) (ih.comp txFillOne_txLocal)) hk

theorem txFill_txLocal {k : State → State} (hk : txSide.Local k) : txSide.Local fun s => (txFill s).andThen k :=
  .read (F := fun fuel s => (txFillLoop fuel s).andThen k) (p := fun s => s.src.length - s.tx.cursor + 1)
    (txSide_reads fun _ _ => rfl) (txFillLoop_txLocal hk)

/-! ### The bodies of TX_START, TX_ACK and TX_TIMEOUT -/

theorem latchTx_txLocal : txSide.Local latchTx :=
  update_txLocal (r := fun s => s.tx) (q := fun s => (latchTx s).txPar)

theorem enterWait_txLocal : txSide.Local enterWait :=
  update_txLocal (r := fun s => (enterWait s).tx) (q := fun s => (enterWait s).txPar)

theorem armTimer_txLocal : txSide.Local armTimer :=
  updateTx_txLocal (r := fun s => (armTimer s).tx)

theorem txStartBody_txLocal : txSide.Local txStartBody := by
  have hafter : txSide.Local fun s => if txConfigLegal s.build s.txCfg s.txPar then
      (txFill (enterWait s)).andThen fun t => setLabels [.started] (armTimer t) else raise .tx .configError s :=
    .ite (txSide_reads fun _ _ => rfl)
      ((txFill_txLocal ((setLabels_txLocal _).comp armTimer_txLocal)).comp enterWait_txLocal) (raise_txLocal _)
  exact hafter.comp latchTx_txLocal

theorem ackAdvance_label_reads (d : Datagram) : txSide.Reads fun s => (ackAdvance d s).1 := by
  refine txSide_reads fun s u => ?_
  unfold ackAdvance
  cases decAck d with
  | none => rfl
  | some a => by_cases h : (s.tx.base : Int) ≤ a <;> simp [h]

theorem ackAdvance_txLocal (d : Datagram) : txSide.Local fun s => (ackAdvance d s).2 := by
  unfold ackAdvance
  cases decAck d with
  | none => exact id_txLocal
  | some a =>
    simp only [apply_ite Prod.snd]
    exact .ite (txSide_reads fun _ _ => rfl)
      (updateTx_txLocal (r := fun s =>
        (winEvictBelow (a + 1).toNat { s with tx := { s.tx with base := (a + 1).toNat } }).tx))
      id_txLocal

theorem txAckBody_txLocal (d : Datagram) : txSide.Local (txAckBody d) :=
  .of_cases (txSide_reads fun _ _ => rfl)
    (.read (F := fun l s => setLabels [l, .done] (endSession .done (ackAdvance d s).2)) (ackAdvance_label_reads d)
      fun _ => (setLabels_txLocal _).comp ((endSession_txLocal _).comp (ackAdvance_txLocal d)))
    (.read (F := fun l s => (txFill (ackAdvance d s).2).andThen fun t => setLabels [l] (loadTimer t))
      (ackAdvance_label_reads d)
      fun _ => (txFill_txLocal ((setLabels_txLocal _).comp loadTimer_txLocal)).comp (ackAdvance_txLocal d))
    (txAckBody_eq d)

theorem resend_txLocal (ps : List Packet) : txSide.Local (resend ps) := by
  induction ps with
  | nil => exact id_txLocal
  | cons p ps ih => exact ih.comp (emitPkt_txLocal _)

theorem resendWindow_txLocal : txSide.Local fun s => resend (winAscending s) s :=
  .read (txSide_reads fun _ _ => rfl) resend_txLocal

theorem countTimeout_txLocal : txSide.Local countTimeout :=
  updateTx_txLocal

theorem waitAgain_txLocal (n : Nat) : txSide.Local (waitAgain n) :=
  txFill_txLocal ((setLabels_txLocal _).comp loadTimer_txLocal)

/-- What TX_TIMEOUT does reports the size of the window it found. -/
theorem read_windowLength_txLocal {F : Nat → State → State} (hF : ∀ n, txSide.Local (F n)) :
    txSide.Local fun s => F s.tx.window.length s :=
  .read (txSide_reads fun _ _ => rfl) hF

theorem txTimeoutBody_txLocal : txSide.Local txTimeoutBody :=
  .of_cases (c := TimeoutEnds) (txSide_reads fun _ _ => rfl)
    (read_windowLength_txLocal fun n => (setLabels_txLocal [.retransmit n, .gaveup]).comp
      ((endSession_txLocal .gaveup).comp (countTimeout_txLocal.comp resendWindow_txLocal)))
    (.ite (c := fun s => s.tx.eomQueued = true ∧ s.txPar.finalTimeouts ≠ none) (txSide_reads fun _ _ => rfl)
      (read_windowLength_txLocal fun n => (waitAgain_txLocal n).comp (countTimeout_txLocal.comp resendWindow_txLocal))
      (read_windowLength_txLocal fun n => (waitAgain_txLocal n).comp resendWindow_txLocal))
    fun s => (txTimeoutBody_cases s).imp_right fun h => by
      rcases h with ⟨hn, hq, hf, he⟩ | ⟨hn, hq, he⟩
      · exact ⟨hn, by rw [he, if_pos ⟨hq, hf⟩]⟩
      · exact ⟨hn, by rw [he, if_neg hq]⟩

/-! ## The receiver's side -/

/-- What an operation of RX leaves behind: its registers, its latched parameter, what it sent and wrote to the sink, and
the trace line. -/
structure RxEffect where
  rx : RxState
  rxPar : RxParams
  acks : List Datagram
  bytes : Bytes
  last : Reply

/-- The effect on a state: the ACKs sent join the reverse channel (R72), the bytes join `OUT` (R67). -/
def RxEffect.apply (e : RxEffect) (s : State) : State :=
  { s with
    rx := e.rx
    rxPar := e.rxPar
    out := s.out ++ e.bytes
    ackOut := s.ackOut ++ e.acks
    reverse := Channel.addAll e.acks s.reverse
    last := e.last }

/-- The receiver: what an operation of RX reads and does, but for the datagram it takes (R20). -/
def rxSide : Side where
  Same := RxSame
  Effect := RxEffect
  apply := RxEffect.apply
  seq e e' := { e' with acks := e.acks ++ e'.acks, bytes := e.bytes ++ e'.bytes }
  same_apply _ _ _ h := ⟨h.build, rfl, rfl, h.rxCfg⟩
  last_apply _ _ _ := rfl
  apply_seq e e' u := by simp [RxEffect.apply, Channel.addAll_append]

theorem RxSame.eq_update {s u : State} (h : RxSame s u) :
    u = { u with build := s.build, rx := s.rx, rxPar := s.rxPar, rxCfg := s.rxCfg } := by
  rw [← h.build, ← h.rx, ← h.rxPar, ← h.rxCfg]

/-- What is computed from the receiver's fields is read from the receiver's side. -/
theorem rxSide_reads {α : Type} {p : State → α}
    (hp : ∀ s u : State, p { u with build := s.build, rx := s.rx, rxPar := s.rxPar, rxCfg := s.rxCfg } = p s) :
    rxSide.Reads p :=
  fun s u h => (congrArg p h.eq_update).trans (hp s u)

/-- An effect read off one state, which every state that agrees on the receiver shows. -/
theorem rxLocal_of_effect {f : State → State} (e : State → RxEffect)
    (he : ∀ s u, RxSame s u → u.last = s.last → f u = (e s).apply u) : rxSide.Local f :=
  fun s => ⟨e s, he s⟩

theorem update_rxLocal {r : State → RxState} {q : State → RxParams}
    (hr : rxSide.Reads r := by exact rxSide_reads fun _ _ => rfl)
    (hq : rxSide.Reads q := by exact rxSide_reads fun _ _ => rfl) :
    rxSide.Local fun s => { s with rx := r s, rxPar := q s } :=
  rxLocal_of_effect (fun s => ⟨r s, q s, [], [], s.last⟩) fun s u h hl => by
    simp [RxEffect.apply, Channel.addAll, hr s u h, hq s u h, ← hl]

theorem setLabels_rxLocal (ls : List Label) : rxSide.Local (setLabels ls) :=
  rxLocal_of_effect (fun s => ⟨s.rx, s.rxPar, [], [], { s.last with labels := ls }⟩) fun s u h hl => by
    simp [RxEffect.apply, Channel.addAll, setLabels, ← h.rx, ← h.rxPar, ← hl]

theorem emitAckOut_rxLocal (d : Datagram) : rxSide.Local (emit .ackOut d) :=
  rxLocal_of_effect
    (fun s => ⟨s.rx, s.rxPar, [d], [], { s.last with effects := s.last.effects ++ [.ackOut d] }⟩)
    fun s u h hl => by
      simp [RxEffect.apply, Channel.addAll, emit, recordEffect, ← h.rx, ← h.rxPar, ← hl]

theorem sinkWrite_rxLocal (bs : Bytes) : rxSide.Local (sinkWrite bs) :=
  rxLocal_of_effect
    (fun s => ⟨s.rx, s.rxPar, [], bs, { s.last with effects := s.last.effects ++ [.sink bs] }⟩)
    fun s u h hl => by
      simp [RxEffect.apply, Channel.addAll, sinkWrite, recordEffect, ← h.rx, ← h.rxPar, ← hl]

/-- An update of the receiver's registers alone; that the new values are read from the receiver is by computation. -/
theorem updateRx_rxLocal {r : State → RxState} (hr : rxSide.Reads r := by exact rxSide_reads fun _ _ => rfl) :
    rxSide.Local fun s => { s with rx := r s } :=
  update_rxLocal hr

theorem raise_rxLocal (f : FatalFault) : rxSide.Local (raise .rx f) :=
  (setLabels_rxLocal _).comp updateRx_rxLocal

theorem resetEngine_rxLocal : rxSide.Local (resetEngine .rx) :=
  (setLabels_rxLocal _).comp updateRx_rxLocal

/-! ### The bodies of RX_START and RX_PKT -/

theorem rxStartBody_rxLocal : rxSide.Local rxStartBody := by
  have hafter : rxSide.Local fun s => if rxConfigLegal s.build s.rxPar then
      setLabels [.started] { s with rx := { s.rx with laf := s.rx.lfr + s.rxPar.rws, phase := .listen } }
      else raise .rx .configError s :=
    .ite (rxSide_reads fun _ _ => rfl)
      ((setLabels_rxLocal _).comp updateRx_rxLocal) (raise_rxLocal _)
  have hlatch : rxSide.Local fun s => { s with rxPar := { s.rxPar with rws := s.rxCfg.rws.toNat } } :=
    update_rxLocal (r := fun s => s.rx)
  exact hafter.comp hlatch

theorem emitAck_rxLocal : rxSide.Local emitAck :=
  .read (p := fun s => encAck s.rx.lfr) (rxSide_reads fun _ _ => rfl) emitAckOut_rxLocal

theorem reject_rxLocal (l : Label) : rxSide.Local (reject l) :=
  (setLabels_rxLocal _).comp emitAck_rxLocal

theorem acceptEom_rxLocal : rxSide.Local acceptEom :=
  (setLabels_rxLocal _).comp ((updateRx_rxLocal (r := fun s => { s.rx with phase := .done })).comp (emitAck_rxLocal.comp
      (updateRx_rxLocal (r := fun s => { s.rx with lfr := s.rx.lfr + 1 }))))

theorem deliverNext_rxLocal : rxSide.Local deliverNext :=
  emitAck_rxLocal.comp (.read (p := fun s => (Store.get (s.rx.lfr + 1) s.rx.buf).getD [])
    (F := fun bs s => sinkWrite bs
      { s with rx := { s.rx with lfr := s.rx.lfr + 1, buf := Store.erase (s.rx.lfr + 1) s.rx.buf } })
    (rxSide_reads fun _ _ => rfl)
    fun bs => (sinkWrite_rxLocal bs).comp updateRx_rxLocal)

/-- The drain and what follows it, which is told the number of deliveries (R176). -/
theorem drainLoop_rxLocal {k : Nat → State → State} (hk : ∀ n, rxSide.Local (k n)) (fuel : Nat) :
    rxSide.Local fun s => k (drainLoop fuel s).1 (drainLoop fuel s).2 := by
  induction fuel generalizing k with
  | zero => exact hk 0
  | succ fuel ih =>
    refine .of_cases (c := fun s => bufHas (s.rx.lfr + 1) s = true) (rxSide_reads fun _ _ => rfl)
      ((ih fun n => hk (n + 1)).comp deliverNext_rxLocal) (hk 0) fun s => ?_
    simp only [drainLoop]
    by_cases h : bufHas (s.rx.lfr + 1) s = true
    · exact .inl ⟨h, by rw [if_pos h]⟩
    · exact .inr ⟨h, by rw [if_neg h]⟩

theorem drain_rxLocal {k : Nat → State → State} (hk : ∀ n, rxSide.Local (k n)) :
    rxSide.Local fun s => k (drain s).1 (drain s).2 :=
  .read (p := fun s => s.rx.buf.length) (F := fun fuel s => k (drainLoop fuel s).1 (drainLoop fuel s).2)
    (rxSide_reads fun _ _ => rfl) (drainLoop_rxLocal hk)

theorem acceptAndDrain_rxLocal (seq : Int) (payload : Bytes) : rxSide.Local (acceptAndDrain seq payload) :=
  (drain_rxLocal (k := fun n s => setLabels [.accept n] { s with rx := { s.rx with laf := s.rx.lfr + s.rxPar.rws } })
    fun _ => (setLabels_rxLocal _).comp updateRx_rxLocal).comp
    (updateRx_rxLocal (r := fun s => (bufPut seq payload s).rx))

/-- What RX_PKT does with a datagram of a class (R173). -/
def answerClass : PktClass → State → State
  | .malformed => reject .malformed
  | .badcrc => reject .badcrc
  | .eom => acceptEom
  | .accept seq payload => acceptAndDrain seq payload
  | .oow => reject .oow

theorem rxPktBody_eq_answerClass (d : Datagram) (s : State) :
    rxPktBody d s = answerClass (classify s.rx.lfr s.rx.laf d) s := by
  unfold rxPktBody
  cases classify s.rx.lfr s.rx.laf d <;> rfl

theorem answerClass_rxLocal (c : PktClass) : rxSide.Local (answerClass c) := by
  cases c with
  | malformed => exact reject_rxLocal _
  | badcrc => exact reject_rxLocal _
  | eom => exact acceptEom_rxLocal
  | accept seq payload => exact acceptAndDrain_rxLocal seq payload
  | oow => exact reject_rxLocal _

theorem rxPktBody_rxLocal (d : Datagram) : rxSide.Local (rxPktBody d) := by
  rw [funext (rxPktBody_eq_answerClass d)]
  exact .read (p := fun s => classify s.rx.lfr s.rx.laf d) (rxSide_reads fun _ _ => rfl) answerClass_rxLocal

/-! ## The operations -/

/-- The ACK an operation works on leaves the reverse channel. -/
def withoutAck (i : Instr) (s : State) : State :=
  { s with reverse := Channel.removeOperand (ackDatagram i) s.reverse }

/-- The data datagram an operation works on leaves the forward channel. -/
def withoutPkt (i : Instr) (s : State) : State :=
  { s with forward := Channel.removeOperand (dataDatagram i) s.forward }

/-- Every operation of TX runs, where the sender's registers enable it, a local body on the state without its ACK. -/
theorem exec_txOp {i : Instr} (hi : txOp i = true) : ∃ (c : State → Bool) (f : State → State),
    txSide.Reads c ∧ txSide.Local f ∧ ∀ s, exec i s = whenEnabled (c s) (fun t => f (withoutAck i t)) s := by
  cases i with
  | txReset => exact ⟨fun _ => true, _, txSide_reads fun _ _ => rfl, resetEngine_txLocal, fun _ => rfl⟩
  | txStart => exact ⟨txStartEnabled, _, txSide_reads fun _ _ => rfl, txStartBody_txLocal, fun _ => rfl⟩
  | txAck d => exact ⟨txAckEnabled, _, txSide_reads fun _ _ => rfl, txAckBody_txLocal d, fun _ => rfl⟩
  | txTimeout => exact ⟨txTimeoutEnabled, _, txSide_reads fun _ _ => rfl, txTimeoutBody_txLocal, fun _ => rfl⟩
  | txTick => exact ⟨txTickEnabled, _, txSide_reads fun _ _ => rfl, txTickBody_txLocal, fun _ => rfl⟩
  | txIofault => exact ⟨txIofaultEnabled, _, txSide_reads fun _ _ => rfl, raise_txLocal .ioFault, fun _ => rfl⟩
  | ack seq rest =>
    exact ⟨txAckEnabled, _, txSide_reads fun _ _ => rfl, txAckBody_txLocal (ackBytes seq rest), fun _ => rfl⟩
  | _ => simp [txOp] at hi

/-- Every operation of RX runs, where the receiver's registers enable it, a local body on the state without its
datagram. -/
theorem exec_rxOp {j : Instr} (hj : rxOp j = true) : ∃ (c : State → Bool) (f : State → State),
    rxSide.Reads c ∧ rxSide.Local f ∧ ∀ s, exec j s = whenEnabled (c s) (fun t => f (withoutPkt j t)) s := by
  cases j with
  | rxReset => exact ⟨fun _ => true, _, rxSide_reads fun _ _ => rfl, resetEngine_rxLocal, fun _ => rfl⟩
  | rxStart => exact ⟨rxStartEnabled, _, rxSide_reads fun _ _ => rfl, rxStartBody_rxLocal, fun _ => rfl⟩
  | rxPkt d => exact ⟨rxPktEnabled, _, rxSide_reads fun _ _ => rfl, rxPktBody_rxLocal d, fun _ => rfl⟩
  | rxIofault => exact ⟨rxIofaultEnabled, _, rxSide_reads fun _ _ => rfl, raise_rxLocal .ioFault, fun _ => rfl⟩
  | pktData seq checksum payload =>
    exact ⟨rxPktEnabled, _, rxSide_reads fun _ _ => rfl, rxPktBody_rxLocal (pktDataBytes seq checksum payload),
      fun _ => rfl⟩
  | pktEom seq =>
    exact ⟨rxPktEnabled, _, rxSide_reads fun _ _ => rfl, rxPktBody_rxLocal (pktEomBytes seq), fun _ => rfl⟩
  | _ => simp [rxOp] at hj

theorem enabled_of_whenEnabled_next {b : Bool} {f : State → State} {s t : State} (h : whenEnabled b f s = .next t) :
    b = true := by
  cases b with
  | false => cases h
  | true => rfl

/-- R20: an operation of TX that completes has one effect, the same in every state with the same sender. -/
theorem txOp_effect {i : Instr} {s a : State} (hi : txOp i = true) (h : exec i s = .next a) :
    ∃ e : TxEffect, ∀ u, TxSame s u → exec i u = .next (e.apply (withoutAck i u)) := by
  obtain ⟨c, f, hc, hf, hexec⟩ := exec_txOp hi
  have hcs : c s = true := enabled_of_whenEnabled_next ((hexec s).symm.trans h)
  obtain ⟨e, he⟩ := hf (withoutAck i (clearReply s))
  refine ⟨e, fun u hu => ?_⟩
  rw [hexec, whenEnabled_of_enabled ((hc s u hu).trans hcs),
    he (withoutAck i (clearReply u)) ⟨hu.build, hu.tx, hu.txPar, hu.txCfg, hu.src⟩ rfl]
  rfl

/-- R20: an operation of RX that completes has one effect, the same in every state with the same receiver. -/
theorem rxOp_effect {j : Instr} {s b : State} (hj : rxOp j = true) (h : exec j s = .next b) :
    ∃ e : RxEffect, ∀ u, RxSame s u → exec j u = .next (e.apply (withoutPkt j u)) := by
  obtain ⟨c, f, hc, hf, hexec⟩ := exec_rxOp hj
  have hcs : c s = true := enabled_of_whenEnabled_next ((hexec s).symm.trans h)
  obtain ⟨e, he⟩ := hf (withoutPkt j (clearReply s))
  refine ⟨e, fun u hu => ?_⟩
  rw [hexec, whenEnabled_of_enabled ((hc s u hu).trans hcs),
    he (withoutPkt j (clearReply u)) ⟨hu.build, hu.rx, hu.rxPar, hu.rxCfg⟩ rfl]
  rfl

/-! ## The two orders -/

/-- R76: the effects of the two engines commute but for the trace line, which is that of the later one. -/
theorem effects_commute (T : TxEffect) (R : RxEffect) {i j : Instr} {s : State} (hs : ChannelInv s)
    (hi : ∀ d, ackDatagram i = some d → d ∈ s.reverse) (hj : ∀ d, dataDatagram j = some d → d ∈ s.forward) :
    R.apply (withoutPkt j (T.apply (withoutAck i s))) =
      { T.apply (withoutAck i (R.apply (withoutPkt j s))) with last := R.last } := by
  simp only [TxEffect.apply, RxEffect.apply, withoutAck, withoutPkt, Channel.removeOperand_addAll _ hs.reverse_wf hi,
    Channel.removeOperand_addAll _ hs.forward_wf hj]

/-- Settles O46: each operation has the same effect in either order, and the two effects commute. -/
theorem engineOperationsCommute : Obligations.EngineOperationsCommute := by
  intro i j s a b hi hj hs hack hpkt ha hb
  obtain ⟨T, hT⟩ := txOp_effect hi ha
  obtain ⟨R, hR⟩ := rxOp_effect hj hb
  have hda : a = T.apply (withoutAck i s) := Host.Outcome.next.inj (ha.symm.trans (hT s ⟨rfl, rfl, rfl, rfl, rfl⟩))
  have hdb : b = R.apply (withoutPkt j s) := Host.Outcome.next.inj (hb.symm.trans (hR s ⟨rfl, rfl, rfl, rfl⟩))
  subst hda hdb
  exact ⟨_, _, hR _ ⟨rfl, rfl, rfl, rfl⟩, hT _ ⟨rfl, rfl, rfl, rfl, rfl⟩, effects_commute T R hs hack hpkt⟩

end Sys2Proof.Machine

/-! PROOFS. An operation is one of the CODEC, of TX or of RX; from its effect follow what it leaves alone and that it
depends on its own engine only (R20), and when a fault code can change (R199). -/

namespace Sys2Proof.Machine

/-! ## The frames -/

/-- Settles O45: the effect of an operation is the same in every state with the same engine. -/
theorem enginesShareNothing : Obligations.EnginesShareNothing := by
  refine ⟨fun i s u t hi hu h => ?_, fun j s u t hj hu h => ?_⟩
  · obtain ⟨e, he⟩ := txOp_effect hi h
    obtain rfl := Host.Outcome.next.inj (h.symm.trans (he s ⟨rfl, rfl, rfl, rfl, rfl⟩))
    exact ⟨_, e.sent, he u hu, ⟨hu.build, rfl, rfl, hu.txCfg, hu.src⟩, rfl, rfl, rfl⟩
  · obtain ⟨e, he⟩ := rxOp_effect hj h
    obtain rfl := Host.Outcome.next.inj (h.symm.trans (he s ⟨rfl, rfl, rfl, rfl⟩))
    exact ⟨_, e.acks, e.bytes, he u hu, ⟨hu.build, rfl, rfl, hu.rxCfg⟩, rfl, rfl, rfl, rfl, rfl⟩

/-- What an operation of TX leaves alone, and what it takes from the reverse channel (R20, R73). -/
theorem txOp_frame {i : Instr} {s t : State} (hi : txOp i = true) (h : exec i s = .next t) :
    TxFrame s t ∧ t.reverse = Channel.removeOperand (ackDatagram i) s.reverse := by
  obtain ⟨e, he⟩ := txOp_effect hi h
  obtain rfl := Host.Outcome.next.inj (h.symm.trans (he s ⟨rfl, rfl, rfl, rfl, rfl⟩))
  exact ⟨⟨rfl, rfl, rfl, rfl, rfl, rfl, rfl, rfl, rfl, rfl⟩, rfl⟩

/-- What an operation of RX leaves alone, and what it takes from the forward channel (R20, R73). -/
theorem rxOp_frame {j : Instr} {s t : State} (hj : rxOp j = true) (h : exec j s = .next t) :
    RxFrame s t ∧ t.forward = Channel.removeOperand (dataDatagram j) s.forward := by
  obtain ⟨e, he⟩ := rxOp_effect hj h
  obtain rfl := Host.Outcome.next.inj (h.symm.trans (he s ⟨rfl, rfl, rfl, rfl⟩))
  exact ⟨⟨rfl, rfl, rfl, rfl, rfl, rfl, rfl, rfl, rfl⟩, rfl⟩

/-- Settles O43: the frame of an operation of TX, with and without an ACK to take. -/
theorem txOperationsFrame : Obligations.TxOperationsFrame := by
  intro i s t hi h
  obtain ⟨hframe, hrev⟩ := txOp_frame hi h
  exact ⟨hframe, fun hn => by rw [hrev, hn]; rfl, fun d hd => by rw [hrev, hd]; rfl⟩

/-! ## What an operation that completes did -/

/-- What an operation does where it is enabled (R120, R140, R170). -/
def execBody : Instr → State → State
  | .crc32 payload => setResult (.checksum (crc32 payload))
  | .encPkt seq checksum payload =>
    setResult (.datagram (encPkt { seq := s32 seq, checksum := checksum, payload := payload }))
  | .decPkt d => setResult (((decPkt d).map Result.packet).getD .malformedPacket)
  | .encAck seq => setResult (.datagram (encAck (s32 seq)))
  | .decAck d => setResult (((decAck d).map Result.ackValue).getD .malformedAck)
  | .txReset => resetEngine .tx
  | .txStart => txStartBody
  | .txAck d => txArrival d
  | .txTimeout => txTimeoutBody
  | .txTick => txTickBody
  | .txIofault => raise .tx .ioFault
  | .rxReset => resetEngine .rx
  | .rxStart => rxStartBody
  | .rxPkt d => rxArrival d
  | .rxIofault => raise .rx .ioFault
  | .pktData seq checksum payload => rxArrival (pktDataBytes seq checksum payload)
  | .pktEom seq => rxArrival (pktEomBytes seq)
  | .ack seq rest => txArrival (ackBytes seq rest)

/-- An operation runs its body on a new trace line exactly where it is enabled (R203). -/
theorem exec_eq_whenEnabled (i : Instr) (s : State) :
    ∃ b : Bool, (b = true ↔ Enabled i s) ∧ exec i s = whenEnabled b (execBody i) s := by
  cases i with
  | crc32 _ | encPkt _ _ _ | encAck _ | txReset | rxReset => exact ⟨true, by simp [Enabled], rfl⟩
  | decPkt d => exact ⟨true, by simp [Enabled], by simp only [exec, execDecPkt, execBody]; cases decPkt d <;> rfl⟩
  | decAck d => exact ⟨true, by simp [Enabled], by simp only [exec, execDecAck, execBody]; cases decAck d <;> rfl⟩
  | txStart => exact ⟨txStartEnabled s, by simp [Enabled, txStartEnabled], rfl⟩
  | txAck _ | ack _ _ => exact ⟨txAckEnabled s, by simp [Enabled, txAckEnabled], rfl⟩
  | txTimeout => exact ⟨txTimeoutEnabled s, by simp [Enabled, txTimeoutEnabled, or_comm], rfl⟩
  | txTick => exact ⟨txTickEnabled s, by simp [Enabled, txTickEnabled]; tauto, rfl⟩
  | txIofault => exact ⟨txIofaultEnabled s, by simp [Enabled, txIofaultEnabled], rfl⟩
  | rxStart => exact ⟨rxStartEnabled s, by simp [Enabled, rxStartEnabled], rfl⟩
  | rxPkt _ | pktData _ _ _ | pktEom _ => exact ⟨rxPktEnabled s, by simp [Enabled, rxPktEnabled], rfl⟩
  | rxIofault => exact ⟨rxIofaultEnabled s, by simp [Enabled, rxIofaultEnabled], rfl⟩

/-- An operation that completes was enabled and ran its body (R203). -/
theorem exec_next {i : Instr} {s t : State} (h : exec i s = .next t) : Enabled i s ∧ t = execBody i (clearReply s) := by
  obtain ⟨b, hb, hexec⟩ := exec_eq_whenEnabled i s
  rw [hexec] at h
  have hen := enabled_of_whenEnabled_next h
  exact ⟨hb.1 hen, (Host.Outcome.next.inj ((whenEnabled_of_enabled hen _ s).symm.trans h)).symm⟩

/-- Every operation is one of the CODEC, of TX or of RX (R20, R99). -/
theorem unit_cases (i : Instr) : codecOp i = true ∨ txOp i = true ∨ rxOp i = true := by
  cases i <;> simp [codecOp, txOp, rxOp]

/-- A CODEC operation changes the trace line alone (R120). -/
theorem codecOp_next {i : Instr} {s t : State} (hi : codecOp i = true) (h : exec i s = .next t) :
    t = { s with last := t.last } := by
  obtain ⟨-, rfl⟩ := exec_next h
  cases i with
  | crc32 _ | encPkt _ _ _ | decPkt _ | encAck _ | decAck _ => rfl
  | _ => simp [codecOp] at hi

/-- The two ends of RX_START (R172). -/
theorem rxStartBody_cases (s : State) :
    (RxConfigOk s.build s.rxCfg ∧ rxStartBody s = setLabels [.started] { s with
      rxPar := { rws := s.rxCfg.rws.toNat }
      rx := { s.rx with laf := s.rx.lfr + s.rxCfg.rws.toNat, phase := .listen } }) ∨
    rxStartBody s = raise .rx .configError { s with rxPar := { rws := s.rxCfg.rws.toNat } } := by
  unfold rxStartBody
  by_cases h : rxConfigLegal s.build { rws := s.rxCfg.rws.toNat } = true
  · exact .inl ⟨by simpa [rxConfigLegal, RxConfigOk] using h, if_pos h⟩
  · exact .inr (if_neg h)

@[simp] theorem rxStartBody_out (s : State) : (rxStartBody s).out = s.out := by
  rcases rxStartBody_cases s with ⟨-, h⟩ | h <;> rw [h] <;> rfl

/-- Only a data datagram makes the receiver write to its sink (R67, R176). -/
theorem rxOp_out_of_no_datagram {j : Instr} {s t : State} (hj : rxOp j = true) (hd : dataDatagram j = none)
    (h : exec j s = .next t) : t.out = s.out := by
  obtain ⟨-, rfl⟩ := exec_next h
  cases j with
  | rxReset | rxIofault => rfl
  | rxStart => exact rxStartBody_out _
  | rxPkt _ | pktData _ _ _ | pktEom _ => simp [dataDatagram] at hd
  | _ => simp [rxOp] at hj

/-- Settles O44: the frame of an operation of RX, with and without a datagram to take. -/
theorem rxOperationsFrame : Obligations.RxOperationsFrame := by
  intro j s t hj h
  obtain ⟨hframe, hfwd⟩ := rxOp_frame hj h
  exact ⟨hframe, fun hn => ⟨by rw [hfwd, hn]; rfl, rxOp_out_of_no_datagram hj hn h⟩, fun d hd => by rw [hfwd, hd]; rfl⟩

/-! ## Fault codes -/

/-- TX entered its FAULT phase: the timer is disarmed and cleared (R199). -/
def TxFaultEntered (t : State) : Prop :=
  t.tx.phase = .fault ∧ t.tx.timerArmed = false ∧ t.tx.timerCnt = 0

theorem raise_txFaultEntered (f : FatalFault) (s : State) : TxFaultEntered (raise .tx f s) := ⟨rfl, rfl, rfl⟩

/-- TX_FILL and what follows it: a fault code changes only where TX_FILL raises (R143). -/
theorem txFill_andThen_fault {k : State → State} (s : State)
    (hk : ∀ t, (k t).tx.fault = t.tx.fault := by exact fun _ => rfl) :
    ((txFill s).andThen k).tx.fault = s.tx.fault ∨ TxFaultEntered ((txFill s).andThen k) := by
  rcases txFill_frame s with ⟨t, ht, -, -, -, -, hfault, -⟩ | ⟨u, hu, -⟩
  · rw [ht]; exact .inl ((hk t).trans hfault)
  · rw [hu]; exact .inr (raise_txFaultEntered _ u)

/-- The two ends of TX_START (R142). -/
theorem txStartBody_cases (s : State) :
    (TxConfigOk s.build s.txCfg ∧
      txStartBody s = (txFill (enterWait (latchTx s))).andThen fun t => setLabels [.started] (armTimer t)) ∨
    txStartBody s = raise .tx .configError (latchTx s) := by
  unfold txStartBody
  by_cases h : TxConfigOk s.build s.txCfg
  · exact .inl ⟨h, if_pos ((txConfigLegal_iff s).2 h)⟩
  · exact .inr (if_neg (mt (txConfigLegal_iff s).1 h))

theorem txStartBody_fault (s : State) :
    (txStartBody s).tx.fault = s.tx.fault ∨ TxFaultEntered (txStartBody s) := by
  rcases txStartBody_cases s with ⟨-, h⟩ | h <;> rw [h]
  · exact txFill_andThen_fault _
  · exact .inr (raise_txFaultEntered _ _)

theorem ackAdvance_fault (d : Datagram) (s : State) : (ackAdvance d s).2.tx.fault = s.tx.fault := by
  rcases ackAdvance_cases d s with ⟨-, h⟩ | ⟨_, -, -, h⟩ | ⟨_, -, -, h⟩ <;> rw [h]

theorem txArrival_fault (d : Datagram) (s : State) :
    (txArrival d s).tx.fault = s.tx.fault ∨ TxFaultEntered (txArrival d s) := by
  have hadv := ackAdvance_fault d (takeDatagram .ackIn d s)
  unfold txArrival
  rcases txAckBody_eq d (takeDatagram .ackIn d s) with ⟨-, h⟩ | ⟨-, h⟩ <;> rw [h]
  · exact .inl hadv
  · exact (txFill_andThen_fault _).imp_left fun hfill => hfill.trans hadv

theorem txTimeoutBody_fault (s : State) :
    (txTimeoutBody s).tx.fault = s.tx.fault ∨ TxFaultEntered (txTimeoutBody s) := by
  obtain ⟨-, htx, -⟩ := resend_spec (winAscending s) s
  have hresend : (resend (winAscending s) s).tx.fault = s.tx.fault := by rw [htx]
  rcases txTimeoutBody_cases s with ⟨-, h⟩ | ⟨-, -, -, h⟩ | ⟨-, -, h⟩ <;> rw [h]
  · exact .inl hresend
  · exact (txFill_andThen_fault _).imp_left fun hfill => hfill.trans hresend
  · exact (txFill_andThen_fault _).imp_left fun hfill => hfill.trans hresend

/-- In the FAULT phase only the reset is enabled (R140, R201). -/
theorem tx_phase_ne_fault_of_enabled {i : Instr} {s : State} (hi : txOp i = true) (hr : i ≠ .txReset)
    (h : Enabled i s) : s.tx.phase ≠ .fault := by
  intro hp
  cases i <;> simp [txOp, Enabled, hp] at hi hr h

/-- An operation of TX other than the reset keeps the fault code or enters the FAULT phase (R199). -/
theorem txOp_fault {i : Instr} {s t : State} (hi : txOp i = true) (hr : i ≠ .txReset) (h : exec i s = .next t) :
    t.tx.fault = s.tx.fault ∨ TxFaultEntered t := by
  obtain ⟨-, rfl⟩ := exec_next h
  cases i with
  | txReset => exact absurd rfl hr
  | txStart => exact txStartBody_fault _
  | txAck _ | ack _ _ => exact txArrival_fault _ _
  | txTimeout => exact txTimeoutBody_fault _
  | txTick => exact .inl rfl
  | txIofault => exact .inr (raise_txFaultEntered _ _)
  | _ => simp [txOp] at hi

theorem acceptAndDrain_fault (seq : Int) (payload : Bytes) (s : State) :
    (acceptAndDrain seq payload s).rx.fault = s.rx.fault := by
  obtain ⟨ps, u, hu, -, h⟩ := acceptAndDrain_spec seq payload s
  rw [h]
  exact hu.fault

theorem answerClass_fault (c : PktClass) (s : State) : (answerClass c s).rx.fault = s.rx.fault := by
  cases c with
  | malformed | badcrc | oow | eom => rfl
  | accept seq payload => exact acceptAndDrain_fault seq payload s

theorem rxArrival_fault (d : Datagram) (s : State) : (rxArrival d s).rx.fault = s.rx.fault := by
  unfold rxArrival
  rw [rxPktBody_eq_answerClass]
  exact answerClass_fault _ _

/-- In the FAULT phase only the reset is enabled (R170, R201). -/
theorem rx_phase_ne_fault_of_enabled {j : Instr} {s : State} (hj : rxOp j = true) (hr : j ≠ .rxReset)
    (h : Enabled j s) : s.rx.phase ≠ .fault := by
  intro hp
  cases j <;> simp [rxOp, Enabled, hp] at hj hr h

/-- An operation of RX other than the reset keeps the fault code or enters the FAULT phase (R199). -/
theorem rxOp_fault {j : Instr} {s t : State} (hj : rxOp j = true) (hr : j ≠ .rxReset) (h : exec j s = .next t) :
    t.rx.fault = s.rx.fault ∨ t.rx.phase = .fault := by
  obtain ⟨-, rfl⟩ := exec_next h
  cases j with
  | rxReset => exact absurd rfl hr
  | rxStart =>
    rcases rxStartBody_cases (clearReply s) with ⟨-, h⟩ | h <;> rw [execBody, h]
    · exact .inl rfl
    · exact .inr rfl
  | rxPkt _ | pktData _ _ _ | pktEom _ => exact .inl (rxArrival_fault _ _)
  | rxIofault => exact .inr rfl
  | _ => simp [rxOp] at hj

/-- Settles O21: only an operation of the engine itself can change its fault code, and it does so by a raise. -/
theorem faultCodesAreSticky : Obligations.FaultCodesAreSticky := by
  intro i s t h
  rcases unit_cases i with hi | hi | hi
  · rw [codecOp_next hi h]
    exact ⟨fun hne => absurd rfl hne, fun hne => absurd rfl hne⟩
  · obtain ⟨hframe, -⟩ := txOp_frame hi h
    refine ⟨fun hne => or_iff_not_imp_left.2 fun hr => ?_, fun hne => absurd (by rw [hframe.rx]) hne⟩
    exact ⟨tx_phase_ne_fault_of_enabled hi hr (exec_next h).1, (txOp_fault hi hr h).resolve_left hne⟩
  · obtain ⟨hframe, -⟩ := rxOp_frame hi h
    refine ⟨fun hne => absurd (by rw [hframe.tx]) hne, fun hne => or_iff_not_imp_left.2 fun hr => ?_⟩
    exact ⟨rx_phase_ne_fault_of_enabled hi hr (exec_next h).1, (rxOp_fault hi hr h).resolve_left hne⟩

end Sys2Proof.Machine

/-! PROOFS. The invariant of TX (R22 to R29, R36) is kept by its operations: a part that the control registers do not
touch, and what the phase adds to it. -/

namespace Sys2Proof.Machine

/-! ## Channels -/

/-- A channel in canonical form that holds nothing longer than a port can carry (R65, R73). -/
structure ChannelOk (b : Config.Build) (c : Channel) : Prop where
  wf : Channel.WF c
  fits : ∀ d ∈ c, d.length ≤ b.maxPayload + 8

theorem ChannelOk.add {b : Config.Build} {c : Channel} (h : ChannelOk b c) {d : Datagram}
    (hd : d.length ≤ b.maxPayload + 8) : ChannelOk b (Channel.add d c) :=
  ⟨Channel.add_wf h.wf, fun e he => (Channel.mem_add.1 he).elim (fun heq => heq ▸ hd) (h.fits e)⟩

theorem ChannelOk.remove {b : Config.Build} {c : Channel} (h : ChannelOk b c) (d : Datagram) :
    ChannelOk b (Channel.remove d c) :=
  ⟨Channel.remove_wf h.wf, fun e he => h.fits e (Channel.mem_of_mem_remove he)⟩

theorem ChannelOk.removeOperand {b : Config.Build} {c : Channel} (h : ChannelOk b c) (o : Option Datagram) :
    ChannelOk b (Channel.removeOperand o c) := by
  cases o with
  | none => exact h
  | some d => exact h.remove d

theorem channelInv_iff {s : State} :
    ChannelInv s ↔ ChannelOk s.build s.forward ∧ ChannelOk s.build s.reverse :=
  ⟨fun h => ⟨⟨h.forward_wf, h.forward_fits⟩, ⟨h.reverse_wf, h.reverse_fits⟩⟩,
    fun ⟨hf, hr⟩ => ⟨hf.wf, hr.wf, hf.fits, hr.fits⟩⟩

/-! ## The part of TX's invariant that holds whatever the phase -/

/-- The latched values come from 32-bit registers (R40). -/
structure LatchedRange (s : State) : Prop where
  pktSize_lt : s.txPar.pktSize < 4294967296
  sws_lt : s.txPar.sws < 4294967296
  rtt_lt : s.txPar.rttTicks < 4294967296
  timeout_lt : s.txPar.timeoutTicks < 68719476736
  final_lt : ∀ n, s.txPar.finalTimeouts = some n → 1 ≤ n ∧ n < 4294967296
  corruptList : s.txCfg.corruptList.length = s.build.maxCorrupt

theorem LatchedRange.congr {s t : State} (h : LatchedRange s) (hpar : t.txPar = s.txPar)
    (hlen : t.txCfg.corruptList.length = s.txCfg.corruptList.length) (hb : t.build = s.build) : LatchedRange t := by
  constructor <;> simp only [hpar, hlen, hb]
  exacts [h.pktSize_lt, h.sws_lt, h.rtt_lt, h.timeout_lt, h.final_lt, h.corruptList]

/-- What holds of TX in every phase, inside an operation too: window, numbers, place in the stream, timeout count. -/
structure TxCore (s : State) : Prop where
  window_wf : Store.WF s.tx.window
  records : RecordsOk s
  capacity : s.tx.window.length ≤ s.txPar.sws
  base_le : s.tx.base ≤ 2147483648
  next_le : s.tx.nextSeqNum ≤ 2147483648
  pos : StreamPos s
  final_le : ∀ n, s.txPar.finalTimeouts = some n → s.tx.finalTimeouts ≤ n
  final_unlimited : s.txPar.finalTimeouts = none → s.tx.finalTimeouts = 0
  latched : LatchedRange s

theorem TxInv.latchedRange {s : State} (h : TxInv s) : LatchedRange s :=
  ⟨h.pktSize_lt, h.sws_lt, h.rtt_lt, h.timeout_lt, h.final_lt, h.corruptList⟩

theorem TxInv.core {s : State} (h : TxInv s) : TxCore s :=
  ⟨h.window_wf, h.records, h.capacity, h.base_le, h.next_le, h.streamPos, fun n hn => (h.final_le n hn).1,
    h.final_unlimited, h.latchedRange⟩

/-- Phase, fault code, timer and trace line are free in it. -/
theorem TxCore.control {s : State} (h : TxCore s) (p : TxPhase) (f : Option FatalFault) (armed : Bool) (cnt : Nat)
    (l : Reply) : TxCore { s with
      tx := { s.tx with phase := p, fault := f, timerArmed := armed, timerCnt := cnt }, last := l } := by
  obtain ⟨hw, hr, hcap, hb, hn, ⟨hstream, hended⟩, hfin, hunl, hlat⟩ := h
  exact ⟨hw, hr, hcap, hb, hn, ⟨hstream, hended⟩, hfin, hunl, hlat.congr rfl rfl rfl⟩

/-- It holds of the reset values, whatever the source and the latched parameters (R42). -/
theorem TxCore.of_init {s : State} (htx : s.tx = TxState.init) (h : LatchedRange s) : TxCore s := by
  refine ⟨?_, ?_, ?_, ?_, ?_, ⟨?_, ?_⟩, ?_, ?_, h⟩ <;> simp [htx, TxState.init, RecordsOk]

/-- The whole invariant of a sender with the reset values. -/
theorem TxInv.of_init {s : State} (htx : s.tx = TxState.init) (h : LatchedRange s) : TxInv s := by
  obtain ⟨hw, hr, hcap, hb, hn, ⟨hstream, hended⟩, hfin, hunl, -⟩ := TxCore.of_init htx h
  refine ⟨hw, hr, hcap, hb, hn, hstream, hended, ?_, ?_, ?_, ?_, fun _ => htx, ?_, hunl, ?_, ?_, h.pktSize_lt, h.sws_lt,
    h.rtt_lt, h.timeout_lt, h.final_lt, h.corruptList⟩ <;> simp [htx, TxState.init]

/-- The whole invariant in a terminal phase: the timer is disarmed and cleared (R207). -/
theorem TxCore.stopped {s : State} (h : TxCore s) (hi : s.tx.phase ≠ .idle) (hw : s.tx.phase ≠ .wait)
    (harmed : s.tx.timerArmed = false) (hcnt : s.tx.timerCnt = 0)
    (hfault : s.tx.fault.isSome = true ↔ s.tx.phase = .fault) : TxInv s :=
  ⟨h.window_wf, h.records, h.capacity, h.base_le, h.next_le, h.pos.streaming, h.pos.ended, by simp [harmed, hw],
    by simp [hcnt], fun _ => hcnt, hfault, fun hp => absurd hp hi,
    fun n hn => ⟨h.final_le n hn, fun hp => absurd hp hw⟩,
    h.final_unlimited, fun hp => absurd hp hw, fun hp => absurd hp hw, h.latched.pktSize_lt, h.latched.sws_lt,
    h.latched.rtt_lt, h.latched.timeout_lt, h.latched.final_lt, h.latched.corruptList⟩

/-- The whole invariant in `TX_WAIT`. -/
theorem TxCore.waiting {s : State} (h : TxCore s) (hw : s.tx.phase = .wait) (harmed : s.tx.timerArmed = true)
    (hcnt : s.tx.timerCnt ≤ s.txPar.timeoutTicks) (hfault : s.tx.fault = none)
    (hbelow : ∀ n, s.txPar.finalTimeouts = some n → s.tx.finalTimeouts < n) (hlegal : SessionLegal s)
    (hfilled : txFillMore s = false) : TxInv s :=
  ⟨h.window_wf, h.records, h.capacity, h.base_le, h.next_le, h.pos.streaming, h.pos.ended, by simp [harmed, hw],
    hcnt, fun hn => absurd hw hn, by simp [hfault, hw], fun hi => absurd (hw.symm.trans hi) nofun,
    fun n hn => ⟨h.final_le n hn, fun _ => hbelow n hn⟩,
    h.final_unlimited, fun _ => hlegal, fun _ => hfilled, h.latched.pktSize_lt, h.latched.sws_lt,
    h.latched.rtt_lt, h.latched.timeout_lt, h.latched.final_lt, h.latched.corruptList⟩

theorem TxCore.raise {s : State} (h : TxCore s) (f : FatalFault) : TxInv (raise .tx f s) :=
  (h.control .fault (some f) false 0 { s.last with labels := [.fault f] }).stopped nofun nofun rfl rfl
    ⟨fun _ => rfl, fun _ => rfl⟩

/-- A session that ends without a fault, in `TX_DONE` or `TX_GAVEUP` (R144, R146). -/
theorem TxCore.endSession {s : State} (h : TxCore s) (ls : List Label) {ph : TxPhase} (hph : ph = .done ∨ ph = .gaveup)
    (hfault : s.tx.fault = none) : TxInv (setLabels ls (endSession ph s)) := by
  refine (h.control ph s.tx.fault false 0 { s.last with labels := ls }).stopped ?_ ?_ rfl rfl ?_ <;>
    rcases hph with rfl | rfl <;> simp [hfault]

/-! ## The sender -/

/-- What the operations of TX keep: TX's invariant and the forward channel. -/
structure SenderOk (s : State) : Prop where
  build : s.build.Legal
  tx : TxInv s
  forward : ChannelOk s.build s.forward

theorem SenderOk.congr {s t : State} (h : SenderOk s) (hs : TxSame s t) (hf : ChannelOk s.build t.forward) :
    SenderOk t :=
  ⟨hs.build ▸ h.build, h.tx.congr hs.tx hs.txPar hs.src hs.build hs.txCfg, hs.build ▸ hf⟩

/-- A sender in `TX_WAIT` inside an operation: what TX_FILL starts from (R143). -/
structure Sending (s : State) : Prop where
  build : s.build.Legal
  core : TxCore s
  phase : s.tx.phase = .wait
  fault : s.tx.fault = none
  below_limit : ∀ n, s.txPar.finalTimeouts = some n → s.tx.finalTimeouts < n
  legal : SessionLegal s
  forward : ChannelOk s.build s.forward

theorem TxInv.fault_eq_none {s : State} (h : TxInv s) (hp : s.tx.phase ≠ .fault) : s.tx.fault = none :=
  Option.not_isSome_iff_eq_none.1 (mt h.faulted.1 hp)

theorem SenderOk.sending {s : State} (h : SenderOk s) (hw : s.tx.phase = .wait) : Sending s :=
  ⟨h.build, h.tx.core, hw, h.tx.fault_eq_none (by simp [hw]), fun n hn => (h.tx.final_le n hn).2 hw, h.tx.legal hw,
    h.forward⟩

theorem SessionLegal.of_latched {s t : State} (h : SessionLegal s) (hb : t.build = s.build) (hpar : t.txPar = s.txPar) :
    SessionLegal t := by
  constructor <;> simp only [hb, hpar]
  exacts [h.pktSize_pos, h.pktSize_le, h.sws_pos, h.sws_le, h.rtt_pos, h.timeout, h.corrupt]

theorem TxCore.congr {s t : State} (h : TxCore s) (hs : TxSame s t) : TxCore t := by
  rw [hs.eq_update]
  obtain ⟨hw, hr, hcap, hb, hn, ⟨hstream, hended⟩, hfin, hunl, hlat⟩ := h
  exact ⟨hw, hr, hcap, hb, hn, ⟨hstream, hended⟩, hfin, hunl, hlat.congr rfl rfl rfl⟩

theorem Sending.congr {s t : State} (h : Sending s) (hs : TxSame s t) (hf : ChannelOk s.build t.forward) : Sending t :=
  ⟨hs.build ▸ h.build, h.core.congr hs, hs.tx ▸ h.phase, hs.tx ▸ h.fault, hs.tx ▸ hs.txPar ▸ h.below_limit,
    h.legal.of_latched hs.build hs.txPar, hs.build ▸ hf⟩

/-! ## TX_FILL and what follows it -/

/-- TX_FILL keeps the part of the invariant that does not depend on the phase. -/
theorem TxCore.fill {s u : State} {j : Nat} (h : TxCore s) (hfrom : FillFrom s j u) (hkeeps : FillKeeps s u) :
    TxCore u := by
  have hlat : LatchedRange u := h.latched.congr hfrom.txPar (by rw [hfrom.frame.txCfg]) hfrom.frame.build
  refine ⟨hkeeps.window_wf, hkeeps.records, ?_, ?_, hkeeps.next_le, hfrom.pos, ?_, ?_, hlat⟩
  · rw [hfrom.txPar]; exact hkeeps.capacity
  · rw [hfrom.base]; exact h.base_le
  · rw [hfrom.txPar, hfrom.finalTimeouts]; exact h.final_le
  · rw [hfrom.txPar, hfrom.finalTimeouts]; exact h.final_unlimited

/-- A sender in `TX_WAIT` after TX_FILL: it waits with the timer started again, or it stopped at SeqExhausted. -/
theorem Sending.fill_andThen {s : State} (h : Sending s) {k : State → State} (ls : List Label)
    (hk : ∀ t, t.tx.timerArmed = s.tx.timerArmed → k t = setLabels ls (armTimer t)) :
    SenderOk ((txFill s).andThen k) := by
  obtain ⟨j, u, hfrom, hkeeps, hfill⟩ := txFill_keeps h.build.1 h.legal.pktSize_pos h.legal.pktSize_le h.core.pos
    h.core.window_wf h.core.records h.core.capacity h.core.next_le h.forward.wf
  have hcore : TxCore u := h.core.fill hfrom hkeeps
  have hbuild : u.build = s.build := hfrom.frame.build
  have hlegal : u.build.Legal := hbuild ▸ h.build
  have hforward : ChannelOk u.build u.forward :=
    ⟨hkeeps.forward_wf, fun d hd => hbuild ▸ (hkeeps.forward_fits d hd).elim (h.forward.fits d) id⟩
  rcases hfill with ⟨hdone, hmore⟩ | ⟨-, -, hraised⟩
  · rw [hdone, Flow.andThen_completed, hk u hfrom.timerArmed]
    have hwait : TxInv (setLabels ls (armTimer u)) :=
      (hcore.control u.tx.phase u.tx.fault true u.txPar.timeoutTicks { u.last with labels := ls }).waiting
        (hfrom.phase.trans h.phase) rfl (Nat.le_refl _) (hfrom.fault.trans h.fault)
        (by simpa only [hfrom.txPar, hfrom.finalTimeouts] using h.below_limit)
        (h.legal.of_latched hbuild hfrom.txPar) hmore
    exact ⟨hlegal, hwait, hforward⟩
  · rw [hraised, Flow.andThen_raised]
    exact ⟨hlegal, hcore.raise _, hforward⟩

/-- The same where the timer is armed already and only loaded (R144, R146). -/
theorem Sending.fill_andThen_loadTimer {s : State} (h : Sending s) (harmed : s.tx.timerArmed = true) (ls : List Label) :
    SenderOk ((txFill s).andThen fun t => setLabels ls (loadTimer t)) :=
  h.fill_andThen ls fun t ht => by simp [armTimer, ← ht.trans harmed]

/-! ## The operations -/

theorem latchTx_latchedRange {s : State} (h : LatchedRange s) : LatchedRange (latchTx s) := by
  refine ⟨s.txCfg.pktSize.isLt, s.txCfg.sws.isLt, s.txCfg.rttTicks.isLt, h.timeout_lt, fun n hn => ?_, h.corruptList⟩
  have hlt := s.txCfg.finalTimeouts.isLt
  simp only [latchTx] at hn
  split at hn
  · cases hn
  · rename_i hne
    have hne : s.txCfg.finalTimeouts.toNat ≠ 0 := fun h0 => hne (BitVec.eq_of_toNat_eq h0)
    cases hn
    omega

theorem latchTx_corruptSet {s : State} (h : TxConfigOk s.build s.txCfg) :
    ∀ k ∈ (latchTx s).txPar.corruptSet, 0 ≤ k ∧ k ≤ seqMax := by
  obtain ⟨-, -, -, -, -, -, hentries, -⟩ := h
  simp only [latchTx, corruptEntries, List.forall_mem_map]
  intro w hw
  have := hentries w hw
  unfold seqMax
  omega

/-- The start of a session: TX waits, with nothing sent and legal latched parameters (R142). -/
theorem SenderOk.sending_enterWait {s : State} (h : SenderOk s) (hi : s.tx.phase = .idle)
    (hok : TxConfigOk s.build s.txCfg) : Sending (enterWait (latchTx s)) := by
  have htx : s.tx = TxState.init := h.tx.idle hi
  have hlat := latchTx_latchedRange h.tx.latchedRange
  have hrtt : (latchTx s).txPar.rttTicks < 4294967296 := hlat.rtt_lt
  have hcore : TxCore { latchTx s with
      txPar := { (latchTx s).txPar with timeoutTicks := 15 * (latchTx s).txPar.rttTicks } } :=
    .of_init htx ⟨hlat.pktSize_lt, hlat.sws_lt, hrtt, by simp only; omega, hlat.final_lt, hlat.corruptList⟩
  have hcorrupt := latchTx_corruptSet hok
  obtain ⟨hps, hps', hsws, hsws', hrtt', -⟩ := hok
  refine ⟨h.build, hcore.control .wait s.tx.fault s.tx.timerArmed s.tx.timerCnt s.last, rfl, ?_, fun n hn => ?_,
    ⟨hps, hps', hsws, hsws', hrtt', rfl, hcorrupt⟩, h.forward⟩
  · exact congrArg TxState.fault htx
  · have hzero : (enterWait (latchTx s)).tx.finalTimeouts = 0 := congrArg TxState.finalTimeouts htx
    have := (hlat.final_lt n hn).1
    omega

theorem SenderOk.txStartBody {s : State} (h : SenderOk s) (hi : s.tx.phase = .idle) : SenderOk (txStartBody s) := by
  rcases txStartBody_cases s with ⟨hok, he⟩ | he <;> rw [he]
  · exact (h.sending_enterWait hi hok).fill_andThen [.started] fun _ _ => rfl
  · have hcore : TxCore (latchTx s) := .of_init (h.tx.idle hi) (latchTx_latchedRange h.tx.latchedRange)
    exact ⟨h.build, hcore.raise _, h.forward⟩

/-- The advance of TX_ACK keeps a sender in `TX_WAIT` (R144): the evicted window is a part of the old one. -/
theorem Sending.ackAdvance {s : State} (h : Sending s) (d : Datagram) : Sending (ackAdvance d s).2 := by
  rcases ackAdvance_cases d s with ⟨-, he⟩ | ⟨a, -, -, he⟩ | ⟨a, ha, hb, he⟩ <;> rw [he]
  · exact h
  · exact h
  · have hrange := decAck_range ha
    obtain ⟨hbuild, ⟨hw, hr, hcap, hbase, hn, hpos, hfin, hunl, hlat⟩, hphase, hfault, hbelow, hlegal, hf⟩ := h
    refine ⟨hbuild, ⟨hw.filter _, fun e he => hr e (List.mem_of_mem_filter he), (List.length_filter_le _ _).trans hcap,
      ?_, hn, ⟨hpos.1, hpos.2⟩, hfin, hunl, hlat.congr rfl rfl rfl⟩, hphase, hfault, hbelow,
      hlegal.of_latched rfl rfl, hf⟩
    simp only
    omega

theorem ackAdvance_timerArmed (d : Datagram) (s : State) :
    (Machine.ackAdvance d s).2.tx.timerArmed = s.tx.timerArmed := by
  rcases ackAdvance_cases d s with ⟨-, h⟩ | ⟨_, -, -, h⟩ | ⟨_, -, -, h⟩ <;> rw [h]

theorem SenderOk.txAckBody {s : State} (h : SenderOk s) (hw : s.tx.phase = .wait) (d : Datagram) :
    SenderOk (txAckBody d s) := by
  have hadv := (h.sending hw).ackAdvance d
  rcases txAckBody_eq d s with ⟨-, he⟩ | ⟨-, he⟩ <;> rw [he]
  · exact ⟨hadv.build, hadv.core.endSession _ (.inl rfl) hadv.fault, hadv.forward⟩
  · exact hadv.fill_andThen_loadTimer ((ackAdvance_timerArmed d s).trans (h.tx.armed.2 hw)) _

theorem SenderOk.txArrival {s : State} (h : SenderOk s) (hw : s.tx.phase = .wait) (d : Datagram) :
    SenderOk (txArrival d s) :=
  (h.congr (t := takeDatagram .ackIn d s) ⟨rfl, rfl, rfl, rfl, rfl⟩ h.forward).txAckBody hw d

theorem resend_txSame (ps : List Packet) (s : State) : TxSame s (resend ps s) := by
  obtain ⟨hframe, htx, hpar, -⟩ := resend_spec ps s
  exact ⟨hframe.build, htx, hpar, hframe.txCfg, hframe.src⟩

theorem resend_forward_ok {ps : List Packet} {s : State} (h : ChannelOk s.build s.forward)
    (hps : ∀ p ∈ ps, p.payload.length ≤ s.build.maxPayload) : ChannelOk s.build (resend ps s).forward := by
  obtain ⟨-, -, -, -, -, hperm, -⟩ := resend_spec ps s
  refine ⟨resend_forward_wf ps h.wf, fun d hd =>
    (List.mem_append.1 (hperm.mem_iff.1 hd)).elim (h.fits d) fun hnew => ?_⟩
  obtain ⟨p, hp, rfl⟩ := List.mem_map.1 hnew
  have := hps p hp
  rw [encPkt_length]
  omega

/-- Every record fits a packet of the build: it is a packet of the stream (R26, R65). -/
theorem Sending.record_fits {s : State} (h : Sending s) :
    ∀ p ∈ winAscending s, p.payload.length ≤ s.build.maxPayload := by
  intro p hp
  obtain ⟨e, he, rfl⟩ := List.mem_map.1 hp
  rw [(h.core.records e he).2.2]
  exact streamPacket_payload_length h.build.1 h.legal.pktSize_le

theorem Sending.resend {s : State} (h : Sending s) : Sending (resend (winAscending s) s) :=
  h.congr (resend_txSame _ s) (resend_forward_ok h.forward h.record_fits)

/-- A timeout with the end-marker queued is counted while the count is below the limit (R29, R146). -/
theorem Sending.countTimeout_core {s : State} (h : Sending s) (hlim : s.txPar.finalTimeouts ≠ none) :
    TxCore (countTimeout s) := by
  obtain ⟨-, ⟨hw, hr, hcap, hb, hn, ⟨hstream, hended⟩, -, -, hlat⟩, -, -, hbelow, -, -⟩ := h
  exact ⟨hw, hr, hcap, hb, hn, ⟨hstream, hended⟩, hbelow, fun hn => absurd hn hlim,
    hlat.congr rfl rfl rfl⟩

theorem Sending.countTimeout {s : State} (h : Sending s) (hlim : s.txPar.finalTimeouts ≠ none)
    (hbelow : ∀ n, s.txPar.finalTimeouts = some n → s.tx.finalTimeouts + 1 < n) : Sending (countTimeout s) :=
  ⟨h.build, h.countTimeout_core hlim, h.phase, h.fault, hbelow, h.legal.of_latched rfl rfl, h.forward⟩

/-- The two ends of a timeout (R146): with every record sent again and the timeout counted where it is to be, TX gives
up or waits again. -/
theorem SenderOk.txTimeoutBody_cases {s : State} (h : SenderOk s) (hw : s.tx.phase = .wait) :
    ∃ u, u.tx = { s.tx with finalTimeouts := u.tx.finalTimeouts } ∧
      ((u.build.Legal ∧ TxCore u ∧ ChannelOk u.build u.forward ∧
          ∃ ls, txTimeoutBody s = setLabels ls (endSession .gaveup u)) ∨
        (Sending u ∧ ∃ n, txTimeoutBody s = waitAgain n u)) := by
  have hre := (h.sending hw).resend
  have hsame := resend_txSame (winAscending s) s
  rcases Machine.txTimeoutBody_cases s with ⟨⟨-, n, hlim, -⟩, he⟩ | ⟨hends, hq, hlim, he⟩ | ⟨-, -, he⟩
  · have hcore := hre.countTimeout_core (by rw [hsame.txPar, hlim]; nofun)
    exact ⟨countTimeout (Machine.resend (winAscending s) s), by simp [countTimeout, hsame.tx],
      .inl ⟨hre.build, hcore, hre.forward, _, he⟩⟩
  · have hcount : Sending (Machine.countTimeout (Machine.resend (winAscending s) s)) := by
      refine hre.countTimeout (hsame.txPar ▸ hlim) fun n hn => ?_
      rw [hsame.txPar] at hn
      rw [hsame.tx]
      exact Nat.lt_of_not_le fun hle => hends ⟨hq, n, hn, hle⟩
    exact ⟨countTimeout (Machine.resend (winAscending s) s), by simp [countTimeout, hsame.tx], .inr ⟨hcount, _, he⟩⟩
  · exact ⟨Machine.resend (winAscending s) s, by rw [hsame.tx], .inr ⟨hre, _, he⟩⟩

theorem SenderOk.txTimeoutBody {s : State} (h : SenderOk s) (hw : s.tx.phase = .wait) :
    SenderOk (txTimeoutBody s) := by
  obtain ⟨u, htx, ⟨hbuild, hcore, hforward, ls, he⟩ | ⟨hu, n, he⟩⟩ := h.txTimeoutBody_cases hw <;> rw [he]
  · have hfault : u.tx.fault = none := by rw [htx]; exact (h.sending hw).fault
    exact ⟨hbuild, hcore.endSession ls (.inr rfl) hfault, hforward⟩
  · exact hu.fill_andThen_loadTimer (by rw [htx]; exact h.tx.armed.2 hw) _

theorem SenderOk.txTickBody {s : State} (h : SenderOk s) (hw : s.tx.phase = .wait) : SenderOk (txTickBody s) := by
  have hs := h.sending hw
  have hcnt := h.tx.timer_le
  exact ⟨h.build, (hs.core.control s.tx.phase s.tx.fault s.tx.timerArmed (s.tx.timerCnt - 1)
    { s.last with labels := [.tick] }).waiting hw (h.tx.armed.2 hw) (by simp only; omega) hs.fault hs.below_limit
    (hs.legal.of_latched rfl rfl) (h.tx.filled hw), h.forward⟩

theorem SenderOk.resetEngine {s : State} (h : SenderOk s) : SenderOk (resetEngine .tx s) :=
  ⟨h.build, .of_init rfl (h.tx.latchedRange.congr rfl rfl rfl), h.forward⟩

/-- Every operation of TX keeps TX's invariant and the forward channel. -/
theorem SenderOk.txOp {i : Instr} {s t : State} (h : SenderOk s) (hi : txOp i = true) (hexec : exec i s = .next t) :
    SenderOk t := by
  obtain ⟨hen, rfl⟩ := exec_next hexec
  have hclear : SenderOk (clearReply s) := h.congr ⟨rfl, rfl, rfl, rfl, rfl⟩ h.forward
  cases i with
  | txReset => exact hclear.resetEngine
  | txStart => exact hclear.txStartBody hen
  | txAck _ | ack _ _ => exact hclear.txArrival hen _
  | txTimeout => exact hclear.txTimeoutBody hen.1
  | txTick => exact hclear.txTickBody hen.1
  | txIofault => exact ⟨h.build, hclear.tx.core.raise _, h.forward⟩
  | _ => simp [Machine.txOp] at hi

end Sys2Proof.Machine

/-! PROOFS. The invariant of RX (R30 to R33, R37) is kept by its operations. -/

namespace Sys2Proof.Machine

/-- What the operations of RX keep: RX's invariant and the reverse channel. -/
structure ReceiverOk (s : State) : Prop where
  build : s.build.Legal
  rx : RxInv s
  reverse : ChannelOk s.build s.reverse

theorem ReceiverOk.congr {s t : State} (h : ReceiverOk s) (hs : RxSame s t) (hr : ChannelOk s.build t.reverse) :
    ReceiverOk t :=
  ⟨hs.build ▸ h.build, h.rx.congr hs.rx hs.rxPar hs.build, hs.build ▸ hr⟩

/-! ## Reset, start and faults -/

/-- The invariant of a receiver with the reset values (R42). -/
theorem RxInv.of_init {s : State} (hrx : s.rx = RxState.init) (hrws : s.rxPar.rws < 4294967296) : RxInv s := by
  refine ⟨?_, ?_, ?_, hrws, fun _ => hrx, ?_, ?_, ?_, ?_, ?_⟩ <;> simp [hrx, RxState.init]

/-- Fault entry from the two phases that allow it (R37, R199). -/
theorem RxInv.raise {s : State} (h : RxInv s) (hp : s.rx.phase = .idle ∨ s.rx.phase = .listen) {f : FatalFault}
    (hf : f ≠ .seqExhausted) : RxInv (raise .rx f s) := by
  refine ⟨h.buf_wf, h.payloads, h.capacity, h.rws_lt, nofun, nofun, nofun, fun _ => ?_, ⟨fun _ => rfl, fun _ => rfl⟩,
    by simpa using hf⟩
  rcases hp with hi | hl
  · have hrx := h.idle hi
    exact .inr ⟨congrArg RxState.lfr hrx, congrArg RxState.laf hrx, congrArg RxState.buf hrx⟩
  · obtain ⟨h1, h2, h3, h4, h5, h6⟩ := h.listen hl
    exact .inl ⟨h1, h2, h3, h4, h5, h6⟩

theorem RxInv.rxStartBody {s : State} (h : RxInv s) (hi : s.rx.phase = .idle) : RxInv (rxStartBody s) := by
  have hrx : s.rx = RxState.init := h.idle hi
  rcases rxStartBody_cases s with ⟨⟨hpos, hle⟩, he⟩ | he <;> rw [he]
  · have hl : Listening (setLabels [.started] { s with
        rxPar := { rws := s.rxCfg.rws.toNat }
        rx := { s.rx with laf := s.rx.lfr + s.rxCfg.rws.toNat, phase := .listen } }) := by
      refine ⟨rfl, hpos, hle, ?_, ?_, ?_⟩ <;> simp [hrx, RxState.init, seqMax]
    refine ⟨?_, ?_, ?_, s.rxCfg.rws.isLt, nofun, fun _ => hl, nofun, nofun, ?_, ?_⟩ <;> simp [hrx, RxState.init]
  · exact (RxInv.of_init (s := { s with rxPar := { rws := s.rxCfg.rws.toNat } }) hrx s.rxCfg.rws.isLt).raise
      (.inl hi) nofun

@[simp] theorem rxStartBody_build (s : State) : (rxStartBody s).build = s.build := by
  rcases rxStartBody_cases s with ⟨-, h⟩ | h <;> rw [h] <;> rfl

@[simp] theorem rxStartBody_reverse (s : State) : (rxStartBody s).reverse = s.reverse := by
  rcases rxStartBody_cases s with ⟨-, h⟩ | h <;> rw [h] <;> rfl

theorem ReceiverOk.rxStartBody {s : State} (h : ReceiverOk s) (hi : s.rx.phase = .idle) :
    ReceiverOk (rxStartBody s) :=
  ⟨by simpa using h.build, h.rx.rxStartBody hi, by simpa using h.reverse⟩

/-! ## Datagrams that are not accepted -/

theorem ChannelOk.emitAck {s : State} (h : ChannelOk s.build s.reverse) :
    ChannelOk (emitAck s).build (emitAck s).reverse :=
  h.add (by rw [encAck_length]; omega)

theorem ReceiverOk.reject {s : State} (h : ReceiverOk s) (l : Label) : ReceiverOk (reject l s) :=
  h.congr ⟨rfl, rfl, rfl, rfl⟩ h.reverse.emitAck

/-- The end-marker: `LFR` one more, `LAF` not written (R31, R32, R175). -/
theorem ReceiverOk.acceptEom {s : State} (h : ReceiverOk s) (hl : s.rx.phase = .listen) : ReceiverOk (acceptEom s) := by
  obtain ⟨hlaf, -, -, hge, hle, -⟩ := h.rx.listen hl
  have hfault : s.rx.fault.isSome = true ↔ s.rx.phase = .fault := h.rx.faulted
  have hdone : (Machine.acceptEom s).rx.laf = (Machine.acceptEom s).rx.lfr - 1 + (Machine.acceptEom s).rxPar.rws ∧
      0 ≤ (Machine.acceptEom s).rx.lfr ∧ (Machine.acceptEom s).rx.lfr ≤ 2147483648 := by
    unfold seqMax at hle
    simp only [Machine.acceptEom, Machine.emitAck, setLabels_rx, setLabels_rxPar, emitAckOut_rx, emitAckOut_rxPar]
    omega
  refine ⟨h.build, ⟨h.rx.buf_wf, h.rx.payloads, h.rx.capacity, h.rx.rws_lt, nofun, nofun, fun _ => hdone, nofun, ?_,
    h.rx.fault_rx⟩, ChannelOk.emitAck (s := { s with rx := { s.rx with lfr := s.rx.lfr + 1 } }) h.reverse⟩
  exact hfault.trans (by simp [hl, Machine.acceptEom])

/-! ## Accept and drain -/

theorem drainLoop_induct {P : State → Prop} (hP : ∀ u, P u → P (deliverNext u)) (fuel : Nat) {s : State} (h : P s) :
    P (drainLoop fuel s).2 := by
  induction fuel generalizing s with
  | zero => exact h
  | succ fuel ih =>
    simp only [drainLoop]
    split
    · exact ih (hP s h)
    · exact h

theorem acceptAndDrain_reverse_ok {s : State} (h : ChannelOk s.build s.reverse) (seq : Int) (payload : Bytes) :
    ChannelOk (acceptAndDrain seq payload s).build (acceptAndDrain seq payload s).reverse :=
  drainLoop_induct (P := fun u => ChannelOk u.build u.reverse)
    (fun _ hu => hu.add (by rw [encAck_length]; omega)) _ (s := bufPut seq payload s) h

/-- The keys of the buffer with an accepted frame in it lie in the window (R37, R96). -/
theorem Listening.keys_put {s : State} (h : Listening s) {seq : Int} (payload : Bytes)
    (hseq : s.rx.lfr < seq ∧ seq ≤ s.rx.laf ∧ seq ≤ seqMax) :
    ∀ e ∈ Store.put seq payload s.rx.buf, s.rx.lfr < e.1 ∧ e.1 ≤ s.rx.laf ∧ e.1 ≤ seqMax := by
  intro e he
  rcases Store.mem_put he with rfl | he
  · exact hseq
  · obtain ⟨hlt, hle, hmax⟩ := h.keys e he
    exact ⟨by omega, hle, hmax⟩

/-- `LFR` stays a sequence number: the last frame delivered was buffered under it (R31, R176). -/
theorem Listening.lfr_drained_le {s u : State} (h : Listening s) {ps : List Bytes} {seq : Int} {payload : Bytes}
    (hseq : s.rx.lfr < seq ∧ seq ≤ s.rx.laf ∧ seq ≤ seqMax) (hu : DrainFrom (bufPut seq payload s) ps u) :
    u.rx.lfr ≤ seqMax := by
  have hlfr : u.rx.lfr = s.rx.lfr + ps.length := hu.lfr
  rcases List.eq_nil_or_concat ps with rfl | ⟨qs, p, rfl⟩
  · have := h.lfr_le
    simpa [hlfr] using this
  · have hget := hu.payloads qs.length p (by simp)
    have hkey := (h.keys_put payload hseq _ (Store.mem_of_get hget)).2.2
    simp only [bufPut_rx] at hkey
    simp only [hlfr, List.concat_eq_append, List.length_append, List.length_singleton]
    omega

/-- What stays buffered lies above the frame that is missing next (R37, R176). -/
theorem Listening.keys_drained {s u : State} (h : Listening s) {ps : List Bytes} {seq : Int} {payload : Bytes}
    (hseq : s.rx.lfr < seq ∧ seq ≤ s.rx.laf ∧ seq ≤ seqMax) (hu : DrainFrom (bufPut seq payload s) ps u)
    (hnext : Store.get (s.rx.lfr + 1 + ps.length) (Store.put seq payload s.rx.buf) = none) :
    ∀ e ∈ u.rx.buf, u.rx.lfr + 1 < e.1 ∧ e.1 ≤ s.rx.laf ∧ e.1 ≤ seqMax := by
  intro e he
  rw [hu.buf] at he
  obtain ⟨hmem, hkept⟩ := List.mem_filter.1 he
  have hput : e ∈ Store.put seq payload s.rx.buf := hmem
  obtain ⟨hlt, hle, hmax⟩ := h.keys_put payload hseq e hput
  have hlfr : u.rx.lfr = s.rx.lfr + ps.length := hu.lfr
  have hkept : ¬ (s.rx.lfr < e.1 ∧ e.1 ≤ s.rx.lfr + ps.length) := fun hdrained => by
    simp [drainedKey_iff.2 hdrained] at hkept
  have hmissing : e.1 ≠ s.rx.lfr + 1 + ps.length := fun heq =>
    Store.get_ne_none_of_mem (v := e.2) (heq ▸ hput) hnext
  exact ⟨by omega, hle, hmax⟩

/-- After the drain the receiver listens again: the window moved with `LFR` (R37, R176). -/
theorem Listening.drained {s u : State} (h : Listening s) {ps : List Bytes} {seq : Int} {payload : Bytes}
    (hseq : s.rx.lfr < seq ∧ seq ≤ s.rx.laf ∧ seq ≤ seqMax) (hu : DrainFrom (bufPut seq payload s) ps u)
    (hnext : Store.get (s.rx.lfr + 1 + ps.length) (Store.put seq payload s.rx.buf) = none) (l : Reply) :
    Listening { u with rx := { u.rx with laf := u.rx.lfr + u.rxPar.rws }, last := l } := by
  have hlfr : u.rx.lfr = s.rx.lfr + ps.length := hu.lfr
  have hpar : u.rxPar = s.rxPar := hu.rxPar
  have hge := h.lfr_ge
  have hlaf := h.laf
  have hmax : u.rx.lfr ≤ seqMax := h.lfr_drained_le hseq hu
  refine ⟨rfl, hpar ▸ h.rws_pos, ?_, by simp only; omega, hmax, fun e he => ?_⟩
  · simp only [hpar, hu.frame.build]
    exact h.rws_le
  · obtain ⟨hlt, hle, hmax⟩ := h.keys_drained hseq hu hnext e he
    simp only [hpar]
    exact ⟨hlt, by omega, hmax⟩

theorem Listening.capacity {s : State} (h : Listening s) (hwf : Store.WF s.rx.buf) :
    s.rx.buf.length ≤ s.rxPar.rws := by
  have hlaf := h.laf
  have := Store.length_le_of_keys hwf (a := s.rx.lfr) (b := s.rx.laf)
    (fun e he => ⟨by have := (h.keys e he).1; omega, (h.keys e he).2.1⟩) (by omega)
  omega

theorem RxInv.acceptAndDrain {s : State} (h : RxInv s) (hl : s.rx.phase = .listen) {seq : Int} {payload : Bytes}
    (hseq : s.rx.lfr < seq ∧ seq ≤ s.rx.laf ∧ seq ≤ seqMax) (hpayload : payload.length ≤ s.build.maxPayload) :
    RxInv (acceptAndDrain seq payload s) := by
  obtain ⟨ps, u, hu, hnext, he⟩ := acceptAndDrain_spec seq payload s
  have hphase : u.rx.phase = .listen := hu.phase.trans hl
  have hfault : u.rx.fault = none :=
    hu.fault.trans (Option.not_isSome_iff_eq_none.1 (mt h.faulted.1 (by simp [hl])))
  have hwf : Store.WF u.rx.buf := by
    rw [hu.buf]
    exact (Store.put_wf h.buf_wf).filter _
  have hlist := (h.listen hl).drained hseq hu hnext { u.last with labels := [.accept ps.length] }
  have hpay : ∀ e ∈ u.rx.buf, e.2.length ≤ u.build.maxPayload := by
    intro e he
    rw [hu.buf] at he
    rw [hu.frame.build]
    rcases Store.mem_put (List.mem_of_mem_filter he) with rfl | he
    · exact hpayload
    · exact h.payloads e he
  have hrws : u.rxPar.rws < 4294967296 := by
    rw [hu.rxPar]
    exact h.rws_lt
  rw [he]
  exact ⟨hwf, hpay, hlist.capacity hwf, hrws, fun hi => absurd (hphase.symm.trans hi) nofun, fun _ => hlist,
    fun hd => absurd (hphase.symm.trans hd) nofun, fun hf => absurd (hphase.symm.trans hf) nofun,
    by simp [hfault, hphase], by simp [hfault]⟩

/-! ## The operations -/

theorem ReceiverOk.rxPktBody {s : State} (h : ReceiverOk s) (hl : s.rx.phase = .listen) {d : Datagram}
    (hd : d.length ≤ s.build.maxPayload + 8) : ReceiverOk (rxPktBody d s) := by
  rw [rxPktBody_eq_answerClass]
  cases hc : classify s.rx.lfr s.rx.laf d with
  | malformed | badcrc | oow => exact h.reject _
  | eom => exact h.acceptEom hl
  | accept seq payload =>
    obtain ⟨hdec, -, hlt, hle⟩ := classify_accept hc
    have hmax := (decPkt_range hdec).2
    have hlen := decPkt_length hdec
    have hmax : seq ≤ seqMax := hmax
    have hbuild : (Machine.acceptAndDrain seq payload s).build = s.build := by
      obtain ⟨ps, u, hu, -, he⟩ := acceptAndDrain_spec seq payload s
      rw [he]
      exact hu.frame.build
    exact ⟨hbuild ▸ h.build, h.rx.acceptAndDrain hl ⟨hlt, hle, hmax⟩ (by simp only at hlen; omega),
      acceptAndDrain_reverse_ok h.reverse seq payload⟩

theorem ReceiverOk.rxArrival {s : State} (h : ReceiverOk s) (hl : s.rx.phase = .listen) {d : Datagram}
    (hd : d.length ≤ s.build.maxPayload + 8) : ReceiverOk (rxArrival d s) :=
  (h.congr (t := takeDatagram .pktIn d s) ⟨rfl, rfl, rfl, rfl⟩ h.reverse).rxPktBody hl hd

/-- A well-formed operation works on a datagram that a port can present (R73). -/
theorem dataDatagram_fits {b : Config.Build} (hb : b.Legal) {i : Instr} (hwf : i.wellFormed b = true) {d : Datagram}
    (hd : dataDatagram i = some d) : d.length ≤ b.maxPayload + 8 := by
  obtain ⟨hpos, -, -⟩ := hb
  cases i with
  | rxPkt d =>
    cases hd
    simpa [Instr.wellFormed, datagramFits] using hwf
  | pktData seq checksum payload =>
    cases hd
    simp only [Instr.wellFormed, payloadFits, Bool.and_eq_true, decide_eq_true_eq] at hwf
    simp only [pktDataBytes, List.length_append, be32_length]
    omega
  | pktEom seq =>
    cases hd
    simp only [pktEomBytes, List.length_append, be32_length, List.length_cons, List.length_nil]
    omega
  | _ => simp [dataDatagram] at hd

/-- Every well-formed operation of RX keeps RX's invariant and the reverse channel. -/
theorem ReceiverOk.rxOp {j : Instr} {s t : State} (h : ReceiverOk s) (hj : rxOp j = true)
    (hwf : j.wellFormed s.build = true) (hexec : exec j s = .next t) : ReceiverOk t := by
  obtain ⟨hen, rfl⟩ := exec_next hexec
  have hclear : ReceiverOk (clearReply s) := h.congr ⟨rfl, rfl, rfl, rfl⟩ h.reverse
  have hfits := fun d => dataDatagram_fits h.build hwf (d := d)
  cases j with
  | rxReset => exact ⟨h.build, .of_init rfl h.rx.rws_lt, h.reverse⟩
  | rxStart => exact hclear.rxStartBody hen
  | rxPkt _ | pktData _ _ _ | pktEom _ => exact hclear.rxArrival hen (hfits _ rfl)
  | rxIofault => exact ⟨h.build, hclear.rx.raise hen nofun, h.reverse⟩
  | _ => simp [Machine.rxOp] at hj

end Sys2Proof.Machine

/-! PROOFS. What one step can do, said once; every step keeps the invariant of the machine, and under ACK-SANE the exact
window (R36). -/

namespace Sys2Proof.Machine

/-! ## What one step can do -/

/-- What an input that runs no operation does: a move of a channel (R75) or an access of the host (R39, R222). -/
inductive EnvMove (s : State) : State → Prop where
  | channel (p : Port) (c : Channel) (hc : ChannelOk s.build (s.channel p) → ChannelOk s.build c) :
    EnvMove s (State.setChannel p c (clearReply s))
  | write (reg : Byte) (v : Word) : EnvMove s (hostWrite reg v s)
  | read (reg : Byte) : EnvMove s (hostRead reg s)
  | source (bytes : Bytes) (hi : s.tx.phase = .idle) : EnvMove s (clearReply { s with src := bytes })
  | sink (hi : s.rx.phase = .idle) : EnvMove s (clearReply { s with out := [] })

theorem runInstr_next {i : Instr} {s t : State} (h : runInstr i s = .next t) :
    i.wellFormed s.build = true ∧ exec i s = .next t := by
  unfold runInstr at h
  split at h
  · exact ⟨‹_›, h⟩
  · cases h

theorem runEvent_next {op : Byte} {len : Nat} {data : Bytes} {s t : State} (h : runEvent op len data s = .next t) :
    ∃ i, decodeSelector op data = .ok i ∧ runInstr i s = .next t := by
  unfold runEvent at h
  split at h
  · rename_i i hi
    refine ⟨i, ?_, h⟩
    simp only [decode, decodeEvent] at hi
    split at hi
    · exact hi
    · cases hi
  · cases h
  · cases h

theorem inFlight_next {p : Port} {d : Datagram} {f : State → Answer} {s t : State}
    (h : inFlight p d f s = .next t) : d ∈ s.channel p ∧ f s = .next t := by
  unfold inFlight at h
  split at h
  · exact ⟨‹_›, h⟩
  · cases h

theorem noOperand_ok {data : Bytes} {i j : Instr} (h : noOperand data i = .ok j) : j = i := by
  unfold noOperand at h
  split at h
  · cases h; rfl
  · cases h

theorem ackDatagram_of_decodeEncPkt {data : Bytes} {i : Instr} (h : decodeEncPkt data = .ok i) :
    ackDatagram i = none := by
  unfold decodeEncPkt at h
  split at h <;> cases h
  rfl

theorem ackDatagram_of_decodeEncAck {data : Bytes} {i : Instr} (h : decodeEncAck data = .ok i) :
    ackDatagram i = none := by
  unfold decodeEncAck at h
  split at h <;> cases h
  rfl

theorem ackDatagram_of_decodePktIn {d : Datagram} {i : Instr} (h : decodePktIn d = .ok i) : ackDatagram i = none := by
  unfold decodePktIn at h
  split at h
  · split at h <;> cases h <;> rfl
  · cases h

/-- Only the selector 0x12 brings an ACK as an event (R99). -/
theorem ackDatagram_of_decodeSelector {op : Byte} {data : Bytes} {i : Instr} {d : Datagram}
    (h : decodeSelector op data = .ok i) (hd : ackDatagram i = some d) : op = 0x12#8 ∧ data = d := by
  unfold decodeSelector at h
  split at h
  case h_2 => simp [ackDatagram_of_decodeEncPkt h] at hd
  case h_4 => simp [ackDatagram_of_decodeEncAck h] at hd
  case h_8 hop =>
    cases h
    exact ⟨BitVec.eq_of_toNat_eq hop, Option.some.inj hd⟩
  case h_1 | h_3 | h_5 | h_14 | h_16 => cases h <;> cases hd
  all_goals cases noOperand_ok h; cases hd

/-- A delivery brings its datagram as an ACK at `tx.ack_in` alone (R95). -/
theorem ackDatagram_of_arrival {p : Port} {d e : Datagram} (h : ackDatagram (arrivalInstr p d) = some e) :
    ackOfInput (.deliver p d) = some e := by
  unfold arrivalInstr at h
  cases p with
  | pktIn =>
    split at h
    · rename_i i hi
      rw [ackDatagram_of_decodePktIn hi] at h
      cases h
    · cases h
  | ackIn =>
    split at h
    · rename_i i hi
      simp only [decode, decodeAckIn] at hi
      split at hi <;> cases hi
      rw [← h]
      simp [ackOfInput, ackDatagram, ackBytes, be32_unbe32]
    · exact h

/-- One input runs a well-formed operation, with the ACK the input brings, or is a move of the environment. -/
theorem runInput_next {i : Input} {s t : State} (h : runInput i s = .next t) :
    (∃ op, op.wellFormed s.build = true ∧ exec op s = .next t ∧
      ∀ d, ackDatagram op = some d → ackOfInput i = some d) ∨ EnvMove s t := by
  cases i with
  | event op len data =>
    obtain ⟨i, hi, hrun⟩ := runEvent_next h
    obtain ⟨hwf, hexec⟩ := runInstr_next hrun
    refine .inl ⟨i, hwf, hexec, fun d hd => ?_⟩
    obtain ⟨rfl, rfl⟩ := ackDatagram_of_decodeSelector hi hd
    rfl
  | deliver p d =>
    obtain ⟨hwf, hexec⟩ := runInstr_next (inFlight_next h).2
    exact .inl ⟨_, hwf, hexec, fun e he => ackDatagram_of_arrival he⟩
  | drop p d =>
    simp only [runInput, runDrop] at h
    obtain ⟨-, hrun⟩ := inFlight_next h
    cases hrun
    exact .inr (by cases p <;> exact .channel _ _ fun hc => hc.remove d)
  | duplicate p d =>
    simp only [runInput, runDuplicate] at h
    obtain ⟨hmem, hrun⟩ := inFlight_next h
    cases hrun
    exact .inr (.channel p _ fun hc => hc.add (hc.fits d hmem))
  | corrupt p d d' =>
    simp only [runInput, runCorrupt] at h
    obtain ⟨-, hrun⟩ := inFlight_next h
    split at hrun
    · rename_i hfits
      cases hrun
      exact .inr (.channel p _ fun hc => (hc.remove d).add (by simpa [datagramFits] using hfits))
    · cases hrun
  | hostWrite reg v => cases h; exact .inr (.write reg v)
  | hostRead reg => cases h; exact .inr (.read reg)
  | hostSource bytes =>
    simp only [runInput, hostSource] at h
    split at h
    · cases h; exact .inr (.source bytes ‹_›)
    · cases h
  | hostSink =>
    simp only [runInput, hostSink] at h
    split at h
    · cases h; exact .inr (.sink ‹_›)
    · cases h

/-- A step waits, or takes the first input (R202, R212). -/
theorem step_next {s t : State} (h : step s = .next t) :
    t = s ∨ ∃ i rest, s.inputs = i :: rest ∧ runInput i { s with inputs := rest } = .next t := by
  unfold step nextInput at h
  cases hin : s.inputs with
  | nil =>
    rw [hin] at h
    cases h
    exact .inl rfl
  | cons i rest =>
    rw [hin] at h
    exact .inr ⟨i, rest, rfl, h⟩

/-! ## The invariant of the machine -/

theorem inv_iff {s : State} : Inv s ↔ SenderOk s ∧ ReceiverOk s := by
  constructor
  · rintro ⟨hb, htx, hrx, hch⟩
    obtain ⟨hf, hr⟩ := channelInv_iff.1 hch
    exact ⟨⟨hb, htx, hf⟩, ⟨hb, hrx, hr⟩⟩
  · rintro ⟨⟨hb, htx, hf⟩, ⟨-, hrx, hr⟩⟩
    exact ⟨hb, htx, hrx, channelInv_iff.2 ⟨hf, hr⟩⟩

/-- Every well-formed operation keeps the invariant: the engine's own part by its operations, the other one by the
frame. -/
theorem Inv.exec {i : Instr} {s t : State} (h : Inv s) (hwf : i.wellFormed s.build = true)
    (hexec : exec i s = .next t) : Inv t := by
  obtain ⟨hs, hr⟩ := inv_iff.1 h
  rcases unit_cases i with hi | hi | hi
  · rw [codecOp_next hi hexec]
    exact inv_iff.2 ⟨hs.congr ⟨rfl, rfl, rfl, rfl, rfl⟩ hs.forward, hr.congr ⟨rfl, rfl, rfl, rfl⟩ hr.reverse⟩
  · obtain ⟨hframe, hrev⟩ := txOp_frame hi hexec
    refine inv_iff.2 ⟨hs.txOp hi hexec, hr.congr ⟨hframe.build, hframe.rx, hframe.rxPar, hframe.rxCfg⟩ ?_⟩
    exact hrev ▸ hr.reverse.removeOperand _
  · obtain ⟨hframe, hfwd⟩ := rxOp_frame hi hexec
    refine inv_iff.2 ⟨hs.congr ⟨hframe.build, hframe.tx, hframe.txPar, hframe.txCfg, hframe.src⟩ ?_,
      hr.rxOp hi hwf hexec⟩
    exact hfwd ▸ hs.forward.removeOperand _

@[simp] theorem writeTxCfg_corruptList_length (reg : Byte) (v : Word) (c : TxCfg) :
    (writeTxCfg reg v c).corruptList.length = c.corruptList.length := by
  unfold writeTxCfg
  split <;> simp

theorem SenderOk.hostWrite {s : State} (h : SenderOk s) (reg : Byte) (v : Word) : SenderOk (hostWrite reg v s) := by
  by_cases hi : s.tx.phase = .idle
  · have hlen : (Machine.hostWrite reg v s).txCfg.corruptList.length = s.txCfg.corruptList.length := by
      simp [Machine.hostWrite, hi]
    exact ⟨h.build, .of_init (h.tx.idle hi) (h.tx.latchedRange.congr rfl hlen rfl), h.forward⟩
  · exact h.congr ⟨rfl, rfl, rfl, if_neg hi, rfl⟩ h.forward

theorem SenderOk.hostSource {s : State} (h : SenderOk s) (hi : s.tx.phase = .idle) (bytes : Bytes) :
    SenderOk (clearReply { s with src := bytes }) :=
  ⟨h.build, .of_init (h.tx.idle hi) (h.tx.latchedRange.congr rfl rfl rfl), h.forward⟩

theorem hostRead_eq (reg : Byte) (s : State) : ∃ n, hostRead reg s =
    { s with
      last := { labels := [], effects := [], result := some (.register (readRegister reg s)) }
      freeCount := n } := by
  unfold hostRead
  split
  · exact ⟨s.freeCount + 1, rfl⟩
  · exact ⟨s.freeCount, rfl⟩

theorem EnvMove.inv {s t : State} (hm : EnvMove s t) (h : Inv s) : Inv t := by
  obtain ⟨hs, hr⟩ := inv_iff.1 h
  rw [inv_iff]
  cases hm with
  | channel p c hc =>
    cases p with
    | pktIn => exact ⟨hs.congr ⟨rfl, rfl, rfl, rfl, rfl⟩ (hc hs.forward), hr.congr ⟨rfl, rfl, rfl, rfl⟩ hr.reverse⟩
    | ackIn => exact ⟨hs.congr ⟨rfl, rfl, rfl, rfl, rfl⟩ hs.forward, hr.congr ⟨rfl, rfl, rfl, rfl⟩ (hc hr.reverse)⟩
  | write reg v => exact ⟨hs.hostWrite reg v, hr.build, hr.rx.congr rfl rfl rfl, hr.reverse⟩
  | read reg =>
    obtain ⟨n, he⟩ := hostRead_eq reg s
    rw [he]
    exact ⟨hs.congr ⟨rfl, rfl, rfl, rfl, rfl⟩ hs.forward, hr.congr ⟨rfl, rfl, rfl, rfl⟩ hr.reverse⟩
  | source bytes hi => exact ⟨hs.hostSource hi bytes, hr.congr ⟨rfl, rfl, rfl, rfl⟩ hr.reverse⟩
  | sink hi => exact ⟨hs.congr ⟨rfl, rfl, rfl, rfl, rfl⟩ hs.forward, hr.congr ⟨rfl, rfl, rfl, rfl⟩ hr.reverse⟩

theorem Inv.withInputs {s : State} (h : Inv s) (rest : List Input) : Inv { s with inputs := rest } := by
  obtain ⟨hs, hr⟩ := inv_iff.1 h
  exact inv_iff.2 ⟨hs.congr ⟨rfl, rfl, rfl, rfl, rfl⟩ hs.forward, hr.congr ⟨rfl, rfl, rfl, rfl⟩ hr.reverse⟩

/-- Settles O55: an operation keeps the invariant, and so does every move of the environment. -/
theorem stepKeepsTheInvariant : Obligations.StepKeepsTheInvariant := by
  intro s t h hstep
  rcases step_next hstep with rfl | ⟨i, rest, -, hrun⟩
  · exact h
  · rcases runInput_next hrun with ⟨op, hwf, hexec, -⟩ | hmove
    · exact (h.withInputs rest).exec hwf hexec
    · exact hmove.inv (h.withInputs rest)

/-! ## The exact window -/

theorem WindowExact.congr {s t : State} (h : WindowExact s) (hb : t.tx.base = s.tx.base)
    (hn : t.tx.nextSeqNum = s.tx.nextSeqNum) (hw : t.tx.window = s.tx.window) : WindowExact t := by
  constructor <;> simp only [hb, hn, hw]
  exacts [h.base_le_next, h.keys]

theorem WindowExact.of_init {s : State} (h : s.tx = TxState.init) : WindowExact s := by
  constructor <;> simp [h, TxState.init]

theorem newPackets_keys (s : State) (j : Nat) :
    ((newPackets s j).map fun p => (p.seq, p)).map Prod.fst = (List.range' s.tx.nextSeqNum j).map Int.ofNat := by
  simp [newPackets, List.range'_eq_map_range, Function.comp_def]

/-- TX_FILL appends the next numbers (R143). -/
theorem WindowExact.fill {s t : State} {j : Nat} (h : WindowExact s) (hfrom : FillFrom s j t) : WindowExact t := by
  have hle := h.base_le_next
  refine ⟨by rw [hfrom.base, hfrom.nextSeqNum]; omega, ?_⟩
  have hsplit : List.range' s.tx.base (s.tx.nextSeqNum + j - s.tx.base) =
      List.range' s.tx.base (s.tx.nextSeqNum - s.tx.base) ++ List.range' s.tx.nextSeqNum j := by
    rw [show s.tx.nextSeqNum + j - s.tx.base = s.tx.nextSeqNum - s.tx.base + j by omega, ← List.range'_append_1]
    congr 2
    omega
  rw [hfrom.window, hfrom.base, hfrom.nextSeqNum, List.map_append, h.keys, newPackets_keys, hsplit, List.map_append]

/-- TX_FILL and what follows it, which changes only phase and timer. -/
theorem WindowExact.fill_andThen {s : State} (h : WindowExact s) (hs : Sending s) {k : State → State}
    (hk : ∀ t, (k t).tx.base = t.tx.base ∧ (k t).tx.nextSeqNum = t.tx.nextSeqNum ∧ (k t).tx.window = t.tx.window := by
      exact fun _ => ⟨rfl, rfl, rfl⟩) : WindowExact ((txFill s).andThen k) := by
  rcases txFill_spec hs.legal.pktSize_pos hs.core.pos fun e he => (hs.core.records e he).2.1 with
    ⟨j, t, ht, hfrom, -⟩ | ⟨j, u, hfrom, -, -, hu⟩
  · rw [ht]
    obtain ⟨hb, hn, hw⟩ := hk t
    exact (h.fill hfrom).congr hb hn hw
  · rw [hu]
    exact (h.fill hfrom).congr rfl rfl rfl

/-- Evicting below `m` leaves the interval from `m` (R69). -/
theorem range'_filter_ge {b m n : Nat} (hb : b ≤ m) (hm : m ≤ n) :
    (List.range' b (n - b)).filter (fun k => decide (m ≤ k)) = List.range' m (n - m) := by
  have hsplit : List.range' b (n - b) = List.range' b (m - b) ++ List.range' m (n - m) := by
    rw [show n - b = (m - b) + (n - m) by omega, ← List.range'_append_1]
    congr 2
    omega
  rw [hsplit, List.filter_append, List.filter_eq_nil_iff.2, List.filter_eq_self.2, List.nil_append]
  · intro k hk
    simp only [List.mem_range'_1] at hk
    simpa using hk.1
  · intro k hk
    simp only [List.mem_range'_1] at hk
    simp only [decide_eq_true_eq]
    omega

/-- An ACK below `nextSeqNum` leaves the exact window from the new base (R36, R144). -/
theorem WindowExact.ackAdvance {s : State} (h : WindowExact s) {d : Datagram}
    (hsane : ∀ a, decAck d = some a → a < s.tx.nextSeqNum) : WindowExact (ackAdvance d s).2 := by
  rcases ackAdvance_cases d s with ⟨-, he⟩ | ⟨a, -, -, he⟩ | ⟨a, ha, hb, he⟩ <;> rw [he]
  · exact h
  · exact h
  · have hlt := hsane a ha
    obtain ⟨m, rfl⟩ := Int.eq_ofNat_of_zero_le (show 0 ≤ a by omega)
    have hm : ((m : Int) + 1).toNat = m + 1 := by omega
    refine ⟨by simp only; omega, ?_⟩
    calc (s.tx.window.filter fun e => decide ((m : Int) + 1 ≤ e.1)).map Prod.fst
        = (s.tx.window.map Prod.fst).filter fun k => decide ((m : Int) + 1 ≤ k) := by
          rw [List.filter_map]; rfl
      _ = ((List.range' s.tx.base (s.tx.nextSeqNum - s.tx.base)).filter fun k => decide (m + 1 ≤ k)).map Int.ofNat := by
          rw [h.keys, List.filter_map]
          congr 2
          funext k
          simp only [Function.comp_apply, Int.ofNat_eq_natCast, decide_eq_decide]
          omega
      _ = (List.range' (m + 1) (s.tx.nextSeqNum - (m + 1))).map Int.ofNat := by
          rw [range'_filter_ge (by omega) (by omega)]
      _ = _ := by rw [hm]

theorem WindowExact.txArrival {s : State} (h : WindowExact s) (hs : SenderOk s) (hw : s.tx.phase = .wait)
    {d : Datagram} (hsane : ∀ a, decAck d = some a → a < s.tx.nextSeqNum) : WindowExact (txArrival d s) := by
  have htake : Sending (takeDatagram .ackIn d s) := (hs.sending hw).congr ⟨rfl, rfl, rfl, rfl, rfl⟩ hs.forward
  have hadv : WindowExact (Machine.ackAdvance d (takeDatagram .ackIn d s)).2 :=
    (h.congr (t := takeDatagram .ackIn d s) rfl rfl rfl).ackAdvance hsane
  unfold Machine.txArrival
  rcases txAckBody_eq d (takeDatagram .ackIn d s) with ⟨-, he⟩ | ⟨-, he⟩ <;> rw [he]
  · exact hadv.congr rfl rfl rfl
  · exact hadv.fill_andThen (htake.ackAdvance d)

theorem WindowExact.txTimeoutBody {s : State} (h : WindowExact s) (hs : SenderOk s) (hw : s.tx.phase = .wait) :
    WindowExact (txTimeoutBody s) := by
  obtain ⟨u, htx, hends⟩ := hs.txTimeoutBody_cases hw
  have hu : WindowExact u := h.congr (by rw [htx]) (by rw [htx]) (by rw [htx])
  rcases hends with ⟨-, -, -, ls, he⟩ | ⟨hsend, n, he⟩ <;> rw [he]
  · exact hu.congr rfl rfl rfl
  · exact hu.fill_andThen hsend

theorem WindowExact.txStartBody {s : State} (h : WindowExact s) (hs : SenderOk s) (hi : s.tx.phase = .idle) :
    WindowExact (txStartBody s) := by
  rcases txStartBody_cases s with ⟨hok, he⟩ | he <;> rw [he]
  · exact (h.congr (t := enterWait (latchTx s)) rfl rfl rfl).fill_andThen (hs.sending_enterWait hi hok)
  · exact h.congr rfl rfl rfl

/-- An operation keeps the exact window, if the ACK it processes, if any, is below `nextSeqNum` (R36). -/
theorem WindowExact.exec {i : Instr} {s t : State} (h : WindowExact s) (hinv : Inv s)
    (hsane : ∀ d a, ackDatagram i = some d → decAck d = some a → a < s.tx.nextSeqNum) (hexec : exec i s = .next t) :
    WindowExact t := by
  rcases unit_cases i with hi | hi | hi
  · rw [codecOp_next hi hexec]
    exact h.congr rfl rfl rfl
  · obtain ⟨hen, rfl⟩ := exec_next hexec
    have hs : SenderOk (clearReply s) := (inv_iff.1 hinv).1.congr ⟨rfl, rfl, rfl, rfl, rfl⟩ (inv_iff.1 hinv).1.forward
    have hclear : WindowExact (clearReply s) := h.congr rfl rfl rfl
    cases i with
    | txReset => exact .of_init rfl
    | txStart => exact hclear.txStartBody hs hen
    | txAck _ | ack _ _ => exact hclear.txArrival hs hen fun a ha => hsane _ a rfl ha
    | txTimeout => exact hclear.txTimeoutBody hs hen.1
    | txTick | txIofault => exact hclear.congr rfl rfl rfl
    | _ => simp [txOp] at hi
  · obtain ⟨hframe, -⟩ := rxOp_frame hi hexec
    exact h.congr (by rw [hframe.tx]) (by rw [hframe.tx]) (by rw [hframe.tx])

theorem EnvMove.tx_eq {s t : State} (hm : EnvMove s t) : t.tx = s.tx := by
  cases hm with
  | channel p c hc => cases p <;> rfl
  | write reg v => rfl
  | read reg =>
    obtain ⟨n, he⟩ := hostRead_eq reg s
    rw [he]
  | source bytes hi => rfl
  | sink hi => rfl

/-- Settles O56: an operation keeps the exact window, and the environment leaves the sender alone. -/
theorem ackSaneStepsKeepTheWindowExact : Obligations.AckSaneStepsKeepTheWindowExact := by
  intro s t hinv h hsane hstep
  rcases step_next hstep with rfl | ⟨i, rest, hin, hrun⟩
  · exact h
  · have hrest : WindowExact { s with inputs := rest } := h.congr rfl rfl rfl
    rcases runInput_next hrun with ⟨op, -, hexec, hack⟩ | hmove
    · exact hrest.exec (hinv.withInputs rest) (fun d a hd ha => hsane i rest d a hin (hack d hd) ha) hexec
    · have htx := hmove.tx_eq
      exact hrest.congr (by rw [htx]) (by rw [htx]) (by rw [htx])

end Sys2Proof.Machine

/-! PROOFS. Power-on (R42, R220) and the host's accesses to the registers (R39 to R41). -/

namespace Sys2Proof.Machine

/-! ## Power-on -/

/-- Settles O17: power-on holds the reset values, and the resets write nothing but their engine. -/
theorem powerOnValues : Obligations.PowerOnValues :=
  fun _ _ _ => ⟨rfl, rfl, fun s =>
    ⟨resetEngine .tx (clearReply s), _, rfl, rfl, rfl, rfl, rfl, rfl, rfl, rfl, rfl, rfl⟩⟩

theorem powerOn_latchedRange {b : Config.Build} {ct : TxCfg} (cr : RxCfg) (h : ct.corruptList.length = b.maxCorrupt) :
    LatchedRange (State.powerOn b ct cr) := by
  refine ⟨?_, ?_, ?_, ?_, nofun, h⟩ <;> simp [State.powerOn]

theorem powerOn_inv {b : Config.Build} {ct : TxCfg} (cr : RxCfg) (hb : b.Legal)
    (h : ct.corruptList.length = b.maxCorrupt) : Inv (State.powerOn b ct cr) :=
  ⟨hb, .of_init rfl (powerOn_latchedRange cr h), .of_init rfl (by simp [State.powerOn]), ⟨.nil, .nil, nofun, nofun⟩⟩

theorem powerOn_honest (b : Config.Build) (ct : TxCfg) (cr : RxCfg) : Honest (State.powerOn b ct cr) :=
  ⟨nofun, fun _ => rfl, nofun, nofun, nofun⟩

/-- Settles O54: the reset values meet every invariant, with nothing sent and nothing in flight. -/
theorem powerOnMeetsTheInvariant : Obligations.PowerOnMeetsTheInvariant :=
  ⟨fun b ct cr hb h => ⟨powerOn_inv cr hb h, .of_init rfl, powerOn_honest b ct cr⟩,
    powerOn_inv _ (by decide) (List.length_replicate ..)⟩

/-! ## The host's accesses -/

theorem step_of_input {s : State} {i : Input} {rest : List Input} (h : s.inputs = i :: rest) :
    step s = runInput i { s with inputs := rest } := by
  simp [step, nextInput, h]

theorem toNat_notMem {reg : Byte} {regs : List Byte} (h : reg ∉ regs) : reg.toNat ∉ regs.map BitVec.toNat :=
  (List.mem_map_of_injective fun _ _ => BitVec.eq_of_toNat_eq).not.2 h

/-- A write to a number that is no TX configuration register (R40). -/
theorem writeTxCfg_other {reg : Byte} {v : Word} {c : TxCfg}
    (h : reg ∉ [0x10#8, 0x11#8, 0x12#8, 0x13#8, 0x14#8, 0x15#8, 0x16#8]) : writeTxCfg reg v c = c := by
  have hn := toNat_notMem h
  unfold writeTxCfg
  split
  case h_8 => rfl
  all_goals
    rename_i hreg
    rw [hreg] at hn
    exact absurd (by decide) hn

/-- Settles O52: the phase guards each engine's registers, and each number writes its register. -/
theorem hostWritesOnlyInIdle : Obligations.HostWritesOnlyInIdle := by
  intro s reg v rest hin
  refine ⟨if s.tx.phase = .idle then writeTxCfg reg v s.txCfg else s.txCfg,
    if s.rx.phase = .idle then writeRxCfg reg v s.rxCfg else s.rxCfg, step_of_input hin, ?_, ?_, ?_, ?_, ?_, ?_⟩
  · exact fun hp => if_neg hp
  · exact fun hp => if_neg hp
  · exact fun hreg => by rw [writeTxCfg_other hreg, ite_self]
  · intro hreg
    have hreg : reg.toNat ≠ 0x20 := fun h => hreg (BitVec.eq_of_toNat_eq h)
    rw [writeRxCfg, if_neg hreg, ite_self]
  · rintro hp rfl
    exact if_pos hp
  · intro hp
    rw [if_pos hp]
    refine ⟨?_, ?_, ?_, ?_, ?_, ?_, ?_⟩ <;> (rintro rfl; rfl)

theorem toNat_ofNat_of_lt {w n : Nat} (h : n < 2 ^ w) : (BitVec.ofNat w n).toNat = n := by
  rw [BitVec.toNat_ofNat, Nat.mod_eq_of_lt h]

/-- The end-marker's number fits the 31 bits of its status (R25, R41). -/
theorem TxInv.eomSeq_lt {s : State} (h : TxInv s) : s.tx.eomSeq < 2147483648 := by
  have hn := h.next_le
  cases hq : s.tx.eomQueued with
  | false => have := (h.streaming hq).1; omega
  | true => obtain ⟨h1, h2, -⟩ := h.ended hq; omega

theorem TxInv.eomStatus_toNat {s : State} (h : TxInv s) :
    (eomStatus s.tx).toNat = if s.tx.eomQueued then 2147483648 + s.tx.eomSeq else 0 := by
  have hlt := h.eomSeq_lt
  unfold eomStatus
  cases s.tx.eomQueued with
  | false => simp
  | true =>
    have h31 : (BitVec.ofNat 31 s.tx.eomSeq).toNat = s.tx.eomSeq := toNat_ofNat_of_lt hlt
    rw [if_pos rfl, if_pos rfl, BitVec.toNat_append, h31]
    exact (Nat.shiftLeft_add_eq_or_of_lt hlt 1).symm

/-- A number that is no register reads 0 (R39). -/
theorem readRegister_other {reg : Byte} {s : State}
    (h : reg ∉ [0x10#8, 0x11#8, 0x12#8, 0x13#8, 0x14#8, 0x15#8, 0x16#8, 0x18#8, 0x19#8, 0x1A#8, 0x1B#8, 0x1C#8, 0x1D#8,
        0x20#8, 0x28#8, 0x29#8, 0x2A#8, 0x2B#8]) : readRegister reg s = 0#32 := by
  have hn := toNat_notMem h
  unfold readRegister
  split
  case h_19 => rfl
  all_goals
    rename_i hreg
    rw [hreg] at hn
    exact absurd (by decide) hn

theorem step_hostRead {s : State} {reg : Byte} {rest : List Input} (h : s.inputs = .hostRead reg :: rest) :
    ∃ n, step s = .next { s with
      inputs := rest, last := { labels := [], effects := [], result := some (.register (readRegister reg s)) }
      freeCount := n } := by
  obtain ⟨n, he⟩ := hostRead_eq reg { s with inputs := rest }
  exact ⟨n, (step_of_input h).trans (congrArg _ he)⟩

/-- Settles O51: the invariant bounds the numbers, so that 32 bits hold them. -/
theorem hostReadsTheRegisters : Obligations.HostReadsTheRegisters := by
  intro s reg rest hinv hin
  obtain ⟨n, hstep⟩ := step_hostRead hin
  have hcorrupt : ∀ w, s.txCfg.corruptList[s.txCfg.corruptIdx.toNat]? = some w → readRegister 0x16#8 s = w :=
    fun w hw => Option.getD_eq_iff.2 (.inl hw)
  have hbase : (readRegister 0x1A#8 s).toNat = s.tx.base :=
    toNat_ofNat_of_lt (hinv.tx.base_le.trans_lt (by decide))
  have hnext : (readRegister 0x1B#8 s).toNat = s.tx.nextSeqNum :=
    toNat_ofNat_of_lt (hinv.tx.next_le.trans_lt (by decide))
  have hwindow : (readRegister 0x1C#8 s).toNat = s.tx.window.length :=
    toNat_ofNat_of_lt (hinv.tx.capacity.trans_lt hinv.tx.sws_lt)
  have heom : (readRegister 0x1D#8 s).toNat = if s.tx.eomQueued then 2147483648 + s.tx.eomSeq else 0 :=
    hinv.tx.eomStatus_toNat
  have hbuf : (readRegister 0x2B#8 s).toNat = s.rx.buf.length :=
    toNat_ofNat_of_lt (hinv.rx.capacity.trans_lt hinv.rx.rws_lt)
  refine ⟨readRegister reg s, n, hstep, ?_, ?_, ?_, ?_, ?_, ?_, fun h => h ▸ hcorrupt, ?_, ?_, fun h => h ▸ hbase,
    fun h => h ▸ hnext, fun h => h ▸ hwindow, fun h => h ▸ heom, ?_, ?_, ?_, ?_, fun h => h ▸ hbuf,
    readRegister_other⟩ <;>
  · rintro rfl
    rfl

end Sys2Proof.Machine

/-! PROOFS. The decoder read backwards (R90 to R99), and from it the arrivals and the other moves of the channels
(R73, R75, R97). -/

namespace Sys2Proof.Machine

/-! ## The decoder read backwards -/

theorem encode_of_noOperand {op : Byte} {data : Bytes} {i j : Instr} (henc : encode i = mkEvent op [])
    (h : noOperand data i = .ok j) : encode j = mkEvent op data := by
  unfold noOperand at h
  split at h
  · rename_i hnil
    cases h
    rw [hnil, henc]
  · cases h

theorem encode_of_decodeEncPkt {data : Bytes} {i : Instr} (h : decodeEncPkt data = .ok i) :
    encode i = mkEvent 0x01#8 data := by
  unfold decodeEncPkt at h
  split at h <;> cases h
  simp [encode, be32_unbe32]

theorem encode_of_decodeEncAck {data : Bytes} {i : Instr} (h : decodeEncAck data = .ok i) :
    encode i = mkEvent 0x03#8 data := by
  unfold decodeEncAck at h
  split at h <;> cases h
  simp [encode, be32_unbe32]

/-- What a selector decodes to is written back as that selector with its operand (R98, R99). -/
theorem encode_of_decodeSelector {op : Byte} {data : Bytes} {i : Instr} (h : decodeSelector op data = .ok i) :
    encode i = mkEvent op data := by
  have hop : op = BitVec.ofNat 8 op.toNat := by simp
  unfold decodeSelector at h
  split at h <;> rename_i hc
  case h_16 => cases h
  all_goals rw [hc] at hop; subst hop
  case h_1 | h_3 | h_5 | h_8 | h_14 => cases h; rfl
  case h_2 => exact encode_of_decodeEncPkt h
  case h_4 => exact encode_of_decodeEncAck h
  all_goals exact encode_of_noOperand rfl h

/-- The two forms of a data packet (R90, R94). -/
theorem decodePktIn_cases {d : Datagram} {i : Instr} (h : decodePktIn d = .ok i) :
    (∃ seq checksum payload, i = .pktData seq checksum payload ∧ pktDataBytes seq checksum payload = d ∧
      isEomFields checksum payload = false) ∨
    ∃ seq, i = .pktEom seq ∧ pktEomBytes seq = d := by
  unfold decodePktIn at h
  split at h
  · rename_i b0 b1 b2 b3 c0 c1 c2 c3 payload
    split at h <;> cases h
    · rename_i heom
      obtain ⟨hcrc, rfl⟩ := heom
      have hfields : [c0, c1, c2, c3] = be32 0xFF000000#32 := by rw [← hcrc, be32_unbe32]
      cases hfields
      exact .inr ⟨_, rfl, by simp [pktEomBytes, be32_unbe32]⟩
    · rename_i hdata
      exact .inl ⟨_, _, _, rfl, by simp [pktDataBytes, be32_unbe32], decide_eq_false hdata⟩
  · cases h

/-- The one form of an ACK (R92). -/
theorem decodeAckIn_cases {d : Datagram} {i : Instr} (h : decodeAckIn d = .ok i) :
    ∃ seq rest, i = .ack seq rest ∧ ackBytes seq rest = d := by
  unfold decodeAckIn at h
  split at h <;> cases h
  exact ⟨_, _, rfl, by simp [ackBytes, be32_unbe32]⟩

/-! ## Arrivals -/

/-- Whatever it decodes to, a datagram at `rx.pkt_in` is processed as RX_PKT of it (R95, R97). -/
theorem exec_arrivalInstr_pktIn (d : Datagram) (s : State) : exec (arrivalInstr .pktIn d) s = exec (.rxPkt d) s := by
  unfold arrivalInstr
  split
  · rename_i i hi
    rcases decodePktIn_cases hi with ⟨seq, checksum, payload, rfl, rfl, -⟩ | ⟨seq, rfl, rfl⟩ <;> rfl
  · rfl

/-- Whatever it decodes to, a datagram at `tx.ack_in` is processed as TX_ACK of it (R95, R97). -/
theorem exec_arrivalInstr_ackIn (d : Datagram) (s : State) : exec (arrivalInstr .ackIn d) s = exec (.txAck d) s := by
  unfold arrivalInstr
  split
  · rename_i i hi
    obtain ⟨seq, rest, rfl, rfl⟩ := decodeAckIn_cases hi
    rfl
  · rfl

/-- A datagram that a port can present arrives as a well-formed operation (R73). -/
theorem arrivalInstr_wellFormed {b : Config.Build} (p : Port) {d : Datagram} (hd : d.length ≤ b.maxPayload + 8) :
    (arrivalInstr p d).wellFormed b = true := by
  unfold arrivalInstr
  split
  · rename_i i hi
    cases p with
    | pktIn =>
      rcases decodePktIn_cases hi with ⟨seq, checksum, payload, rfl, rfl, hdata⟩ | ⟨seq, rfl, rfl⟩
      · simp only [pktDataBytes, List.length_append, be32_length] at hd
        simp only [Instr.wellFormed, payloadFits, hdata, Bool.not_false, Bool.and_true, decide_eq_true_eq]
        omega
      · rfl
    | ackIn =>
      obtain ⟨seq, rest, rfl, rfl⟩ := decodeAckIn_cases hi
      simp only [ackBytes, List.length_append, be32_length] at hd
      simp only [Instr.wellFormed, decide_eq_true_eq]
      omega
  · cases p <;> exact decide_eq_true hd

/-- An arrival that is processed has left its channel (R73). -/
theorem channel_of_exec_arrivalInstr {p : Port} {d : Datagram} {s t : State}
    (h : exec (arrivalInstr p d) s = .next t) : t.channel p = Channel.remove d (s.channel p) := by
  cases p with
  | pktIn => exact (rxOp_frame (j := .rxPkt d) rfl ((exec_arrivalInstr_pktIn d s).symm.trans h)).2
  | ackIn => exact (txOp_frame (i := .txAck d) rfl ((exec_arrivalInstr_ackIn d s).symm.trans h)).2

/-- A channel move works on a datagram in flight (R75). -/
theorem inFlight_of_mem {p : Port} {d : Datagram} {s : State} (h : d ∈ s.channel p) (f : State → Answer) :
    inFlight p d f s = f s :=
  if_pos h

theorem runDeliver_of_mem {p : Port} {d : Datagram} {s : State} (hd : d.length ≤ s.build.maxPayload + 8)
    (h : d ∈ s.channel p) : runDeliver p d s = exec (arrivalInstr p d) s :=
  (inFlight_of_mem h _).trans (if_pos (arrivalInstr_wellFormed p hd))

theorem runDeliver_of_notMem {p : Port} {d : Datagram} {s : State} (h : d ∉ s.channel p) :
    runDeliver p d s = .fault .noSuchDatagram :=
  if_neg h

/-- A delivery that completes takes one copy from its channel (R73, R75). -/
theorem runDeliver_perm {p : Port} {d : Datagram} {s t : State} (h : runDeliver p d s = .next t) :
    (s.channel p).Perm (d :: t.channel p) := by
  obtain ⟨hmem, hrun⟩ := inFlight_next h
  rw [channel_of_exec_arrivalInstr (runInstr_next hrun).2]
  exact Channel.remove_perm hmem

/-- Settles O49: an arrival takes exactly its operand from the channel. -/
theorem deliveryIsTheArrivalOperation : Obligations.DeliveryIsTheArrivalOperation := by
  intro s d rest hd
  refine ⟨fun hin => ?_, fun hin => ?_⟩
  · have hstep : step s = runDeliver .pktIn d { s with inputs := rest } := step_of_input hin
    rw [hstep]
    refine ⟨fun h => ?_, fun h => ?_, fun t ht => runDeliver_perm ht⟩
    · rw [← exec_arrivalInstr_pktIn]
      exact runDeliver_of_mem (p := .pktIn) hd h
    · exact runDeliver_of_notMem h
  · have hstep : step s = runDeliver .ackIn d { s with inputs := rest } := step_of_input hin
    rw [hstep]
    refine ⟨fun h => ?_, fun h => ?_, fun t ht => runDeliver_perm ht⟩
    · rw [← exec_arrivalInstr_ackIn]
      exact runDeliver_of_mem (p := .ackIn) hd h
    · exact runDeliver_of_notMem h

/-! ## The other moves of a channel -/

theorem runDrop_of_mem {p : Port} {d : Datagram} {s : State} (h : d ∈ s.channel p) :
    runDrop p d s = .next (State.setChannel p (Channel.remove d (s.channel p)) (clearReply s)) :=
  (inFlight_of_mem h _).trans (by cases p <;> rfl)

theorem runDuplicate_of_mem {p : Port} {d : Datagram} {s : State} (h : d ∈ s.channel p) :
    runDuplicate p d s = .next (State.setChannel p (Channel.add d (s.channel p)) (clearReply s)) :=
  (inFlight_of_mem h _).trans (by cases p <;> rfl)

theorem runCorrupt_of_mem {p : Port} {d d' : Datagram} {s : State} (hd' : d'.length ≤ s.build.maxPayload + 8)
    (h : d ∈ s.channel p) : runCorrupt p d d' s =
      .next (State.setChannel p (Channel.add d' (Channel.remove d (s.channel p))) (clearReply s)) :=
  (inFlight_of_mem h _).trans ((if_pos (decide_eq_true hd')).trans (by cases p <;> rfl))

theorem runDrop_next {p : Port} {d : Datagram} {s t : State} (h : runDrop p d s = .next t) :
    t = State.setChannel p (Channel.remove d (s.channel p)) (clearReply s) := by
  obtain ⟨hmem, -⟩ := inFlight_next h
  exact Host.Outcome.next.inj (h.symm.trans (runDrop_of_mem hmem))

theorem runDuplicate_next {p : Port} {d : Datagram} {s t : State} (h : runDuplicate p d s = .next t) :
    d ∈ s.channel p ∧ t = State.setChannel p (Channel.add d (s.channel p)) (clearReply s) := by
  obtain ⟨hmem, -⟩ := inFlight_next h
  exact ⟨hmem, Host.Outcome.next.inj (h.symm.trans (runDuplicate_of_mem hmem))⟩

theorem runCorrupt_next {p : Port} {d d' : Datagram} {s t : State} (h : runCorrupt p d d' s = .next t) :
    t = State.setChannel p (Channel.add d' (Channel.remove d (s.channel p))) (clearReply s) := by
  obtain ⟨hmem, hmove⟩ := inFlight_next h
  split at hmove
  · rename_i hfits
    exact Host.Outcome.next.inj (h.symm.trans (runCorrupt_of_mem (of_decide_eq_true hfits) hmem))
  · cases hmove

/-- Settles O50: adding and removing one copy are the moves of a multiset. -/
theorem channelMoves : Obligations.ChannelMoves := by
  intro s p d d' rest hmem
  have hmem : d ∈ State.channel p { s with inputs := rest } := by cases p <;> exact hmem
  have hchannel : State.channel p { s with inputs := rest } = s.channel p := by cases p <;> rfl
  have hremove : (d :: Channel.remove d (s.channel p)).Perm (s.channel p) :=
    (Channel.remove_perm (hchannel ▸ hmem)).symm
  refine ⟨fun hin => ?_, fun hin => ?_, fun hin hfits => ?_⟩
  · exact ⟨_, hremove, (step_of_input hin).trans (hchannel ▸ runDrop_of_mem hmem)⟩
  · exact ⟨_, Channel.add_perm d _, (step_of_input hin).trans (hchannel ▸ runDuplicate_of_mem hmem)⟩
  · refine ⟨Channel.add d' (Channel.remove d (s.channel p)), ?_,
      (step_of_input hin).trans (hchannel ▸ runCorrupt_of_mem hfits hmem)⟩
    calc (d :: Channel.add d' (Channel.remove d (s.channel p))).Perm (d :: d' :: Channel.remove d (s.channel p)) :=
          (Channel.add_perm d' _).cons d
      List.Perm _ (d' :: d :: Channel.remove d (s.channel p)) := .swap d' d _
      List.Perm _ (d' :: s.channel p) := hremove.cons d'

end Sys2Proof.Machine

/-! PROOFS. Honest sessions (R75, R78): whatever the ACKs, the sink holds the first chunks of the source, in
order. -/

namespace Sys2Proof.Machine

/-! ## The part of an honest session that the sender moves -/

/-- The session goes on: the stream is the same and what was sent stays sent. -/
structure SessionGrows (s t : State) : Prop where
  src : t.src = s.src
  pktSize : t.txPar.pktSize = s.txPar.pktSize
  next_le : s.tx.nextSeqNum ≤ t.tx.nextSeqNum

theorem SessionGrows.delivered_eq {s t : State} (h : SessionGrows s t) (n : Nat) : delivered t n = delivered s n := by
  simp only [delivered, h.src, h.pktSize]

theorem Sent.grow {s t : State} {d : Datagram} (h : Sent s d) (hg : SessionGrows s t) : Sent t d := by
  obtain ⟨k, hk, hd⟩ := h
  exact ⟨k, Nat.lt_of_lt_of_le hk hg.next_le, by rw [hg.src, hg.pktSize]; exact hd⟩

/-- `e` is a chunk of the stream under its own number, and that packet has been sent (R78). -/
def SentChunk (s : State) (e : Int × Bytes) : Prop :=
  0 ≤ e.1 ∧ e.1 < s.tx.nextSeqNum ∧ e.1 < numChunks s.src.length s.txPar.pktSize ∧
    e.2 = chunkOf s.src s.txPar.pktSize e.1.toNat

theorem SentChunk.grow {s t : State} {e : Int × Bytes} (h : SentChunk s e) (hg : SessionGrows s t) : SentChunk t e := by
  obtain ⟨hpos, hnext, hnum, hchunk⟩ := h
  have hle := hg.next_le
  refine ⟨hpos, by omega, ?_, ?_⟩ <;> rw [hg.src, hg.pktSize]
  exacts [hnum, hchunk]

/-- While the receiver stands still the sender may send on, and the channel may lose. -/
theorem Honest.grow {s t : State} (h : Honest s) (hg : SessionGrows s t) (hrx : t.rx = s.rx) (hout : t.out = s.out)
    (hf : ∀ d ∈ t.forward, d ∈ s.forward ∨ Sent t d) : Honest t := by
  have hle := hg.next_le
  refine ⟨fun d hd => (hf d hd).elim (fun hs => (h.inFlight d hs).grow hg) id, ?_, ?_, ?_, ?_⟩ <;> rw [hrx]
  · exact hout ▸ h.idle
  · intro hp
    obtain ⟨hdel, hnext, hnum⟩ := h.listening hp
    exact ⟨by rw [hout, hg.delivered_eq, hdel], by omega, by rw [hg.src, hg.pktSize]; exact hnum⟩
  · exact fun hp e he => SentChunk.grow (h.buffered hp e he) hg
  · intro hp
    obtain ⟨n, hn, hdel⟩ := h.ended hp
    exact ⟨n, by omega, by rw [hout, hg.delivered_eq, hdel]⟩

/-- What an honest session speaks of is unchanged, but for datagrams lost. -/
theorem Honest.congr {s t : State} (h : Honest s) (hf : ∀ d ∈ t.forward, d ∈ s.forward := by exact fun _ => id)
    (hg : SessionGrows s t := by exact ⟨rfl, rfl, Nat.le_refl _⟩) (hrx : t.rx = s.rx := by rfl)
    (hout : t.out = s.out := by rfl) : Honest t :=
  h.grow hg hrx hout fun d hd => .inl (hf d hd)

/-- An honest receiver has delivered some of the chunks sent, in every phase (R78). -/
theorem Honest.exists_delivered {s : State} (h : Honest s) : ∃ n, n ≤ s.tx.nextSeqNum ∧ s.out = delivered s n := by
  rcases hp : s.rx.phase with _ | _ | _ | _
  · exact ⟨0, Nat.zero_le _, h.idle hp⟩
  · obtain ⟨hdel, hnext, -⟩ := h.listening hp
    exact ⟨_, by omega, hdel⟩
  · exact h.ended (.inl hp)
  · exact h.ended (.inr hp)

/-! ## Before the first packet -/

/-- Nothing of the session has been sent: nothing is in flight or delivered, and the receiver has its first window. -/
structure Unsent (s : State) : Prop where
  forward : s.forward = []
  out : s.out = []
  listening : s.rx.phase = .listen → s.rx.lfr = -1 ∧ s.rx.buf = []

/-- Before the first packet the session is honest, whatever its stream. -/
theorem Unsent.honest {s : State} (h : Unsent s) : Honest s := by
  refine ⟨by simp [h.forward], fun _ => h.out, fun hp => ?_, fun hp => ?_, fun _ => ⟨0, Nat.zero_le _, h.out⟩⟩
  · obtain ⟨hlfr, -⟩ := h.listening hp
    simp [hlfr, h.out, delivered]
  · simp [(h.listening hp).2]

/-- An idle sender has sent nothing. -/
theorem Honest.unsent {s : State} (h : Honest s) (hinv : Inv s) (hi : s.tx.phase = .idle) : Unsent s := by
  have hnext : s.tx.nextSeqNum = 0 := congrArg TxState.nextSeqNum (hinv.tx.idle hi)
  have hlfr (hp : s.rx.phase = .listen) : s.rx.lfr = -1 := by
    have := (hinv.rx.listen hp).lfr_ge
    have := (h.listening hp).2.1
    omega
  refine ⟨List.eq_nil_iff_forall_not_mem.2 fun d hd => ?_, ?_, fun hp => ⟨hlfr hp, ?_⟩⟩
  · obtain ⟨k, hk, -⟩ := h.inFlight d hd
    omega
  · obtain ⟨n, hn, hdel⟩ := h.exists_delivered
    obtain rfl : n = 0 := by omega
    exact hdel
  · refine List.eq_nil_iff_forall_not_mem.2 fun e he => ?_
    obtain ⟨hpos, hlt, -⟩ := h.buffered hp e he
    omega

/-! ## The operations of TX -/

theorem Inv.clearReply {s : State} (h : Inv s) : Inv (clearReply s) := by
  obtain ⟨hs, hr⟩ := inv_iff.1 h
  exact inv_iff.2 ⟨hs.congr ⟨rfl, rfl, rfl, rfl, rfl⟩ hs.forward, hr.congr ⟨rfl, rfl, rfl, rfl⟩ hr.reverse⟩

theorem sent_firstTransmission {s : State} {k : Nat} (hk : k < s.tx.nextSeqNum) (cs : List Int) :
    Sent s (firstTransmission cs (streamPacket s.src s.txPar.pktSize k)) := by
  refine ⟨k, hk, ?_⟩
  unfold firstTransmission
  split
  · exact .inr rfl
  · exact .inl rfl

/-- One iteration of TX_FILL sends a packet of the stream (R143). -/
theorem Honest.txFillOne {s : State} (h : Honest s) (hps : 1 ≤ s.txPar.pktSize) (hpos : StreamPos s)
    (hq : s.tx.eomQueued = false) : Honest (txFillOne s) := by
  obtain ⟨c, q, m, he, -⟩ := txFillOne_stream hps hpos hq
  rw [he]
  refine h.grow ⟨rfl, rfl, Nat.le_succ _⟩ rfl rfl fun d hd => ?_
  rcases Channel.mem_add.1 hd with rfl | hd
  · exact .inr (sent_firstTransmission (Nat.lt_succ_self _) _)
  · exact .inl hd

/-- TX_FILL and what follows it, which changes phase, timer and trace line only. -/
theorem Honest.fill_andThen {s : State} (h : Honest s) (hps : 1 ≤ s.txPar.pktSize) (hpos : StreamPos s)
    {k : State → State} (hk : ∀ t, Honest t → Honest (k t) := by
      exact fun t ht => ht.congr) : Honest ((txFill s).andThen k) := by
  have hstep (u : State) (hu : Honest u ∧ 1 ≤ u.txPar.pktSize ∧ StreamPos u) (hmore : txFillMore u = true) :
      Honest (Machine.txFillOne u) ∧ 1 ≤ (Machine.txFillOne u).txPar.pktSize ∧ StreamPos (Machine.txFillOne u) := by
    obtain ⟨hhon, hps, hpos⟩ := hu
    have hq : u.tx.eomQueued = false := by simpa using (Bool.and_eq_true_iff.1 hmore).2
    obtain ⟨c, q, m, he, hpos'⟩ := txFillOne_stream hps hpos hq
    exact ⟨hhon.txFillOne hps hpos hq, he ▸ hps, hpos'⟩
  rcases txFill_induct (fun u hu hmore _ => hstep u hu hmore) ⟨h, hps, hpos⟩ with
    ⟨t, ht, hhon, -⟩ | ⟨u, ⟨hhon, -⟩, -, -, hu⟩
  · rw [ht]
    exact hk t hhon
  · rw [hu]
    exact hhon.congr

theorem Honest.txStartBody {s : State} (h : Honest s) (hinv : Inv s) (hi : s.tx.phase = .idle) :
    Honest (txStartBody s) := by
  obtain ⟨hfwd, hout, hlisten⟩ := h.unsent hinv hi
  rcases txStartBody_cases s with ⟨hok, he⟩ | he <;> rw [he]
  · have hstart : Honest (enterWait (latchTx s)) := Unsent.honest ⟨hfwd, hout, hlisten⟩
    have hs := (inv_iff.1 hinv).1.sending_enterWait hi hok
    exact hstart.fill_andThen hs.legal.pktSize_pos hs.core.pos
  · exact Unsent.honest ⟨hfwd, hout, hlisten⟩

theorem Honest.ackAdvance {s : State} (h : Honest s) (d : Datagram) : Honest (ackAdvance d s).2 := by
  rcases ackAdvance_cases d s with ⟨-, he⟩ | ⟨a, -, -, he⟩ | ⟨a, -, -, he⟩ <;> rw [he]
  · exact h
  · exact h
  · exact h.congr

/-- Any ACK, honest or not, leaves the session honest: it moves the window alone and sends on (R78, R144). -/
theorem Honest.txArrival {s : State} (h : Honest s) (hs : Sending s) (d : Datagram) : Honest (txArrival d s) := by
  have hsend : Sending (Machine.ackAdvance d (takeDatagram .ackIn d s)).2 :=
    (hs.congr (t := takeDatagram .ackIn d s) ⟨rfl, rfl, rfl, rfl, rfl⟩ hs.forward).ackAdvance d
  have hadv : Honest (Machine.ackAdvance d (takeDatagram .ackIn d s)).2 :=
    (h.congr (t := takeDatagram .ackIn d s)).ackAdvance d
  unfold Machine.txArrival
  rcases txAckBody_eq d (takeDatagram .ackIn d s) with ⟨-, he⟩ | ⟨-, he⟩ <;> rw [he]
  · exact hadv.congr
  · exact hadv.fill_andThen hsend.legal.pktSize_pos hsend.core.pos

/-- A retransmission sends packets of the stream again (R26, R146). -/
theorem Honest.resend {s : State} (h : Honest s) (hr : RecordsOk s) : Honest (resend (winAscending s) s) := by
  obtain ⟨hframe, htx, hpar, -, -, hperm, -⟩ := resend_spec (winAscending s) s
  have hg : SessionGrows s (Machine.resend (winAscending s) s) :=
    ⟨hframe.src, by rw [hpar], by rw [htx]⟩
  refine h.grow hg hframe.rx hframe.out fun d hd => (List.mem_append.1 (hperm.mem_iff.1 hd)).imp_right fun hnew => ?_
  obtain ⟨p, hp, rfl⟩ := List.mem_map.1 hnew
  obtain ⟨e, he, rfl⟩ := List.mem_map.1 hp
  obtain ⟨hpos, hlt, hrec⟩ := hr e he
  exact Sent.grow ⟨e.1.toNat, by omega, .inl (by rw [hrec])⟩ hg

theorem Honest.txTimeoutBody {s : State} (h : Honest s) (hs : Sending s) : Honest (txTimeoutBody s) := by
  have hre := h.resend hs.core.records
  have hps := hs.resend.legal.pktSize_pos
  have hpos := hs.resend.core.pos
  have hcount : Honest (countTimeout (Machine.resend (winAscending s) s)) :=
    hre.congr
  rcases txTimeoutBody_cases s with ⟨-, he⟩ | ⟨-, -, -, he⟩ | ⟨-, -, he⟩ <;> rw [he]
  · exact hcount.congr
  · exact hcount.fill_andThen hps ⟨hpos.streaming, hpos.ended⟩
  · exact hre.fill_andThen hps hpos

/-- Every operation of TX but the reset keeps the session honest. -/
theorem Honest.txOp {i : Instr} {s t : State} (h : Honest s) (hinv : Inv s) (hi : txOp i = true) (hr : i ≠ .txReset)
    (hexec : exec i s = .next t) : Honest t := by
  obtain ⟨hen, rfl⟩ := exec_next hexec
  have hclear : Honest (clearReply s) := h.congr
  have hinv : Inv (clearReply s) := hinv.clearReply
  have hs : s.tx.phase = .wait → Sending (clearReply s) := (inv_iff.1 hinv).1.sending
  cases i with
  | txReset => exact absurd rfl hr
  | txStart => exact hclear.txStartBody hinv hen
  | txAck _ | ack _ _ => exact hclear.txArrival (hs hen) _
  | txTimeout => exact hclear.txTimeoutBody (hs hen.1)
  | txTick | txIofault => exact hclear.congr
  | _ => simp [Machine.txOp] at hi

/-! ## The operations of RX -/

/-- The receiver stops, in `RX_DONE` or `RX_FAULT`, with nothing more written. -/
theorem Honest.stop {s t : State} (h : Honest s) (hp : t.rx.phase = .done ∨ t.rx.phase = .fault)
    (hf : ∀ d ∈ t.forward, d ∈ s.forward := by exact fun _ => id)
    (hg : SessionGrows s t := by exact ⟨rfl, rfl, Nat.le_refl _⟩) (hout : t.out = s.out := by rfl) : Honest t := by
  obtain ⟨n, hn, hdel⟩ := h.exists_delivered
  have hle := hg.next_le
  refine ⟨fun d hd => (h.inFlight d (hf d hd)).grow hg, ?_, ?_, ?_,
    fun _ => ⟨n, by omega, by rw [hout, hg.delivered_eq, hdel]⟩⟩ <;>
  · intro hq
    simp [hq] at hp

/-- The receiver listens after the first `m` chunks, and everything else it holds is a chunk that was sent. -/
theorem Honest.of_listening {s t : State} (hg : SessionGrows s t) (hf : ∀ d ∈ t.forward, Sent s d)
    (hp : t.rx.phase = .listen) {m : Nat} (hlfr : t.rx.lfr + 1 = m) (hout : t.out = delivered s m)
    (hnext : m ≤ s.tx.nextSeqNum) (hnum : m ≤ numChunks s.src.length s.txPar.pktSize)
    (hbuf : ∀ e ∈ t.rx.buf, SentChunk s e) : Honest t := by
  have hle := hg.next_le
  refine ⟨fun d hd => (hf d hd).grow hg, fun hq => absurd (hp.symm.trans hq) nofun, fun _ => ?_,
    fun _ e he => (hbuf e he).grow hg, fun hq => ?_⟩
  · rw [hlfr, Int.toNat_natCast, hg.delivered_eq, hg.src, hg.pktSize]
    exact ⟨hout, by omega, by omega⟩
  · simp [hp] at hq

/-- The start opens the window before the first chunk (R172). -/
theorem Honest.rxStartBody {s : State} (h : Honest s) (hinv : Inv s) (hi : s.rx.phase = .idle) :
    Honest (rxStartBody s) := by
  have hrx : s.rx = RxState.init := hinv.rx.idle hi
  rcases rxStartBody_cases s with ⟨-, he⟩ | he <;> rw [he]
  · exact .of_listening (m := 0) ⟨rfl, rfl, Nat.le_refl _⟩ h.inFlight rfl (by simp [hrx, RxState.init]) (h.idle hi)
      (Nat.zero_le _) (Nat.zero_le _) (by simp [hrx, RxState.init])
  · exact h.stop (.inr rfl)

theorem chunkOf_ne_nil {src : Bytes} {ps k : Nat} (h : k < numChunks src.length ps) : chunkOf src ps k ≠ [] := by
  have hps : 1 ≤ ps := by
    by_contra hps
    obtain rfl : ps = 0 := by omega
    simp [numChunks] at h
  have hlt := (lt_numChunks hps).1 h
  simp only [chunkOf, ne_eq, List.take_eq_nil_iff, List.drop_eq_nil_iff]
  omega

theorem streamPacket_payload_ne_nil (src : Bytes) (ps k : Nat) : (streamPacket src ps k).payload ≠ [] := by
  simp only [streamPacket, mkPkt]
  split
  · exact chunkOf_ne_nil ‹_›
  · simp [eomPayload]

/-- What an honest receiver accepts is a chunk that was sent: a corrupted packet fails its checksum, and the end-marker
is no chunk (R78, R96, R132). -/
theorem Sent.accepted {s : State} {d : Datagram} (h : Sent s d) (hn : s.tx.nextSeqNum ≤ 2147483648) {lfr laf seq : Int}
    {payload : Bytes} (hc : classify lfr laf d = .accept seq payload) : SentChunk s (seq, payload) := by
  obtain ⟨hdec, hneom, -⟩ := classify_accept hc
  obtain ⟨k, hk, rfl | rfl⟩ := h
  · rw [decPkt_encPkt (by simp) (by simp only [streamPacket_seq]; omega), Option.some.injEq] at hdec
    have hseq : (k : Int) = seq := congrArg Packet.seq hdec
    have hpay : (streamPacket s.src s.txPar.pktSize k).payload = payload := congrArg Packet.payload hdec
    by_cases hnum : k < numChunks s.src.length s.txPar.pktSize
    · rw [streamPacket, if_pos hnum] at hpay
      subst hseq
      exact ⟨Int.natCast_nonneg k, Int.ofNat_lt.2 hk, Int.ofNat_lt.2 hnum, hpay.symm⟩
    · rw [streamPacket, if_neg hnum] at hpay
      exact absurd hpay.symm hneom
  · obtain ⟨p, hp, hv⟩ := verify_corrupt (seq := k) (streamPacket_payload_ne_nil s.src s.txPar.pktSize k)
    rw [show mkPkt k (streamPacket s.src s.txPar.pktSize k).payload = streamPacket s.src s.txPar.pktSize k from rfl,
      hdec, Option.some.injEq] at hp
    simp [← hp, verify] at hv

/-- Sent chunks numbered from `m` on continue the first `m` chunks (R78). -/
theorem delivered_append {s : State} {m : Nat} {ps : List Bytes}
    (hps : ∀ i p, ps[i]? = some p → SentChunk s (((m + i : Nat) : Int), p)) :
    delivered s m ++ ps.flatten = delivered s (m + ps.length) := by
  have hchunks : ps = (List.range ps.length).map fun i => chunkOf s.src s.txPar.pktSize (m + i) := by
    refine List.ext_getElem (by simp) fun i hi _ => ?_
    obtain ⟨-, -, -, hchunk⟩ := hps i _ (List.getElem?_eq_getElem hi)
    simpa only [Int.toNat_natCast, List.getElem_map, List.getElem_range] using hchunk
  conv_lhs => rw [hchunks]
  simp [delivered, List.range_add, Function.comp_def]

/-- The chunks delivered are no more than were sent, and no more than the stream has. -/
theorem sentChunks_le {s : State} {m : Nat} {ps : List Bytes} (hnext : m ≤ s.tx.nextSeqNum)
    (hnum : m ≤ numChunks s.src.length s.txPar.pktSize)
    (hps : ∀ i p, ps[i]? = some p → SentChunk s (((m + i : Nat) : Int), p)) :
    m + ps.length ≤ s.tx.nextSeqNum ∧ m + ps.length ≤ numChunks s.src.length s.txPar.pktSize := by
  rcases Nat.eq_zero_or_pos ps.length with h0 | hpos
  · omega
  · obtain ⟨-, hlt, hlt', -⟩ := hps (ps.length - 1) _ (List.getElem?_eq_getElem (by omega))
    simp only at hlt hlt'
    omega

/-- The drain of a buffer of sent chunks delivers the next chunks of the stream (R78, R176). -/
theorem Honest.acceptAndDrain {s : State} (h : Honest s) (hl : s.rx.phase = .listen) (hge : -1 ≤ s.rx.lfr)
    {seq : Int} {payload : Bytes} (hchunk : SentChunk s (seq, payload)) : Honest (acceptAndDrain seq payload s) := by
  obtain ⟨ps, u, hu, -, he⟩ := acceptAndDrain_spec seq payload s
  obtain ⟨m, hm⟩ := Int.eq_ofNat_of_zero_le (a := s.rx.lfr + 1) (by omega)
  obtain ⟨hdel, hnext, hnum⟩ := h.listening hl
  rw [hm, Int.toNat_natCast] at hdel
  have hput : ∀ e ∈ Store.put seq payload s.rx.buf, SentChunk s e := fun e he =>
    (Store.mem_put he).elim (fun heq => heq ▸ hchunk) (h.buffered hl e)
  have hps (i : Nat) (p : Bytes) (hp : ps[i]? = some p) : SentChunk s (((m + i : Nat) : Int), p) := by
    have hget := hu.payloads i p hp
    rw [bufPut_rx, hm] at hget
    exact hput _ (Store.mem_of_get hget)
  obtain ⟨hnext', hnum'⟩ := sentChunks_le (by omega) (by omega) hps
  have hlfr : u.rx.lfr = s.rx.lfr + ps.length := hu.lfr
  have hout : u.out = s.out ++ ps.flatten := hu.out
  rw [he]
  refine .of_listening (s := s) (m := m + ps.length) ⟨hu.frame.src, ?_, ?_⟩ (fun d hd => h.inFlight d (hu.forward ▸ hd))
    (hu.phase.trans hl) ?_ ?_ hnext' hnum' fun e he => ?_
  · exact congrArg TxParams.pktSize hu.frame.txPar
  · exact Nat.le_of_eq (congrArg TxState.nextSeqNum hu.frame.tx).symm
  · simp only [setLabels_rx]
    omega
  · exact hout.trans (hdel ▸ delivered_append hps)
  · exact hput e (List.mem_of_mem_filter (hu.buf ▸ he))

/-- An honest datagram, whatever its class, keeps the session honest (R78, R173). -/
theorem Honest.rxArrival {s : State} (h : Honest s) (hinv : Inv s) (hl : s.rx.phase = .listen) {d : Datagram}
    (hd : d ∈ s.forward) : Honest (rxArrival d s) := by
  have hge := (hinv.rx.listen hl).lfr_ge
  have htake : Honest (takeDatagram .pktIn d s) :=
    h.congr fun _ => Channel.mem_of_mem_remove
  unfold Machine.rxArrival
  rw [rxPktBody_eq_answerClass]
  cases hc : classify (takeDatagram .pktIn d s).rx.lfr (takeDatagram .pktIn d s).rx.laf d with
  | malformed | badcrc | oow => exact htake.congr
  | eom => exact htake.stop (.inl rfl)
  | accept seq payload => exact htake.acceptAndDrain hl hge ((h.inFlight d hd).accepted hinv.tx.next_le hc)

/-- Every operation of RX but the reset keeps the session honest, if the datagram it takes, if any, is in flight. -/
theorem Honest.rxOp {j : Instr} {s t : State} (h : Honest s) (hinv : Inv s) (hj : rxOp j = true) (hr : j ≠ .rxReset)
    (hd : ∀ d, dataDatagram j = some d → d ∈ s.forward) (hexec : exec j s = .next t) : Honest t := by
  obtain ⟨hen, rfl⟩ := exec_next hexec
  have hclear : Honest (clearReply s) := h.congr
  have hinv : Inv (clearReply s) := hinv.clearReply
  cases j with
  | rxReset => exact absurd rfl hr
  | rxStart => exact hclear.rxStartBody hinv hen
  | rxPkt _ | pktData _ _ _ | pktEom _ => exact hclear.rxArrival hinv hen (hd _ rfl)
  | rxIofault => exact hclear.stop (.inr rfl)
  | _ => simp [Machine.rxOp] at hj

/-- Every operation but the resets keeps the session honest, if the datagram it takes, if any, is in flight. -/
theorem Honest.exec {i : Instr} {s t : State} (h : Honest s) (hinv : Inv s) (htx : i ≠ .txReset) (hrx : i ≠ .rxReset)
    (hd : ∀ d, dataDatagram i = some d → d ∈ s.forward) (hexec : exec i s = .next t) : Honest t := by
  rcases unit_cases i with hi | hi | hi
  · rw [codecOp_next hi hexec]
    exact h.congr
  · exact h.txOp hinv hi htx hexec
  · exact h.rxOp hinv hi hrx hd hexec

/-! ## The step -/

/-- A channel that gains nothing at `rx.pkt_in` keeps the session honest, whatever happens to the ACKs (R75). -/
theorem Honest.setChannel {s : State} (h : Honest s) {p : Port} {c : Channel}
    (hc : p = .pktIn → ∀ d ∈ c, d ∈ s.forward) : Honest (State.setChannel p c (clearReply s)) := by
  cases p with
  | pktIn => exact h.congr (hc rfl)
  | ackIn => exact h.congr

/-- Which events bring a reset or a data datagram (R99). -/
theorem honest_of_decodeSelector {op : Byte} {data : Bytes} {i : Instr} (h : decodeSelector op data = .ok i) :
    (i = .txReset → op = 0x10#8) ∧ (i = .rxReset → op = 0x20#8) ∧
      ∀ d, dataDatagram i = some d → op = 0x22#8 ∧ data = d := by
  have henc := encode_of_decodeSelector h
  refine ⟨?_, ?_, fun d hd => ?_⟩
  · rintro rfl
    exact (Encoded.event.inj henc).1.symm
  · rintro rfl
    exact (Encoded.event.inj henc).1.symm
  · cases i with
    | rxPkt e =>
      obtain ⟨hop, -, hdata⟩ := Encoded.event.inj henc
      exact ⟨hop.symm, hdata.symm.trans (Option.some.inj hd)⟩
    | pktData _ _ _ | pktEom _ => cases henc
    | _ => cases hd

/-- An event that is no reset and forges no datagram keeps the session honest. -/
theorem Honest.runEvent {s t : State} (h : Honest s) (hinv : Inv s) {op : Byte} {len : Nat} {data : Bytes}
    (htx : op ≠ 0x10#8) (hrx : op ≠ 0x20#8) (hpkt : op = 0x22#8 → data ∈ s.forward)
    (hrun : runEvent op len data s = .next t) : Honest t := by
  obtain ⟨i, hdec, hrun⟩ := runEvent_next hrun
  obtain ⟨hitx, hirx, hidata⟩ := honest_of_decodeSelector hdec
  refine h.exec hinv (mt hitx htx) (mt hirx hrx) (fun d hd => ?_) (runInstr_next hrun).2
  obtain ⟨hop, rfl⟩ := hidata d hd
  exact hpkt hop

/-- A delivery brings a datagram in flight. -/
theorem Honest.runDeliver {s t : State} (h : Honest s) (hinv : Inv s) {p : Port} {d : Datagram}
    (hrun : runDeliver p d s = .next t) : Honest t := by
  obtain ⟨hmem, hrun⟩ := inFlight_next hrun
  have hexec := (runInstr_next hrun).2
  cases p with
  | pktIn =>
    rw [exec_arrivalInstr_pktIn] at hexec
    exact h.exec (i := .rxPkt d) hinv nofun nofun (fun e he => Option.some.inj he ▸ hmem) hexec
  | ackIn =>
    rw [exec_arrivalInstr_ackIn] at hexec
    exact h.exec (i := .txAck d) hinv nofun nofun nofun hexec

/-- Settles O57: an operation keeps the session honest, and so does every other input, but a corruption on the forward
channel. -/
theorem honestStepsKeepDeliveryInOrder : Obligations.HonestStepsKeepDeliveryInOrder := by
  intro s t hinv h hhon hstep
  rcases step_next hstep with rfl | ⟨i, rest, hin, hrun⟩
  · exact h
  have hi := hhon i rest hin
  have h : Honest { s with inputs := rest } := h.congr
  have hinv : Inv { s with inputs := rest } := hinv.withInputs rest
  cases i with
  | event op len data =>
    obtain ⟨htx, hrx, hpkt⟩ := hi
    exact h.runEvent hinv htx hrx hpkt hrun
  | deliver p d => exact h.runDeliver hinv hrun
  | drop p d =>
    obtain rfl := runDrop_next hrun
    refine h.setChannel fun hp e he => ?_
    subst hp
    exact Channel.mem_of_mem_remove he
  | duplicate p d =>
    obtain ⟨hmem, rfl⟩ := runDuplicate_next hrun
    refine h.setChannel fun hp e he => ?_
    subst hp
    exact (Channel.mem_add.1 he).elim (fun heq => heq ▸ hmem) id
  | corrupt p d d' =>
    obtain rfl := runCorrupt_next hrun
    cases p with
    | pktIn => exact hi.elim
    | ackIn => exact h.setChannel nofun
  | hostWrite reg v =>
    cases hrun
    exact h.congr
  | hostRead reg =>
    cases hrun
    obtain ⟨n, he⟩ := hostRead_eq reg { s with inputs := rest }
    rw [he]
    exact h.congr
  | hostSource bytes =>
    simp only [runInput, hostSource] at hrun
    split at hrun
    · rename_i hidle
      cases hrun
      obtain ⟨hfwd, hout, hlisten⟩ := h.unsent hinv hidle
      exact Unsent.honest ⟨hfwd, hout, hlisten⟩
    · cases hrun
  | hostSink =>
    simp only [runInput, hostSink] at hrun
    split at hrun
    · rename_i hidle
      cases hrun
      exact h.congr (hout := (h.idle hidle).symm)
    · cases hrun

/-- Settles O58: the session stays honest, and what an honest session has delivered begins its source. -/
theorem deliveredBytesAreAPrefixOfTheSource : Obligations.DeliveredBytesAreAPrefixOfTheSource :=
  fun s t hinv h hhon hstep => (honestStepsKeepDeliveryInOrder s t hinv h hhon hstep).out_prefix

end Sys2Proof.Machine

/-! PROOFS. What a session fixes: the latched parameters (R79) and the streams (R66, R67); the stores as finite maps
(R68 to R71). -/

namespace Sys2Proof.Machine

/-! ## The latched parameters -/

/-- TX_FILL and what follows it keep the latched parameters (R79, R143). -/
theorem txFill_andThen_txPar {k : State → State} (s : State)
    (hk : ∀ t, (k t).txPar = t.txPar := by exact fun _ => rfl) : ((txFill s).andThen k).txPar = s.txPar := by
  rcases txFill_frame s with ⟨t, ht, -, hpar, -⟩ | ⟨u, hu, -, hpar, -⟩
  · rw [ht]; exact (hk t).trans hpar
  · rw [hu]; exact hpar

theorem ackAdvance_txPar (d : Datagram) (s : State) : (ackAdvance d s).2.txPar = s.txPar := by
  rcases ackAdvance_cases d s with ⟨-, h⟩ | ⟨_, -, -, h⟩ | ⟨_, -, -, h⟩ <;> rw [h]

theorem txArrival_txPar (d : Datagram) (s : State) : (txArrival d s).txPar = s.txPar := by
  have hadv := ackAdvance_txPar d (takeDatagram .ackIn d s)
  unfold txArrival
  rcases txAckBody_eq d (takeDatagram .ackIn d s) with ⟨-, h⟩ | ⟨-, h⟩ <;> rw [h]
  · exact hadv
  · exact (txFill_andThen_txPar _).trans hadv

theorem txTimeoutBody_txPar (s : State) : (txTimeoutBody s).txPar = s.txPar := by
  obtain ⟨-, -, hresend, -⟩ := resend_spec (winAscending s) s
  rcases txTimeoutBody_cases s with ⟨-, h⟩ | ⟨-, -, -, h⟩ | ⟨-, -, h⟩ <;> rw [h]
  · exact hresend
  · exact (txFill_andThen_txPar _).trans hresend
  · exact (txFill_andThen_txPar _).trans hresend

/-- Of the operations of TX only TX_START latches (R79). -/
theorem txOp_txPar {i : Instr} {s t : State} (hi : txOp i = true) (hs : i ≠ .txStart) (h : exec i s = .next t) :
    t.txPar = s.txPar := by
  obtain ⟨-, rfl⟩ := exec_next h
  cases i with
  | txStart => exact absurd rfl hs
  | txAck _ | ack _ _ => exact txArrival_txPar _ _
  | txTimeout => exact txTimeoutBody_txPar _
  | txReset | txTick | txIofault => rfl
  | _ => simp [txOp] at hi

theorem acceptAndDrain_rxPar (seq : Int) (payload : Bytes) (s : State) :
    (acceptAndDrain seq payload s).rxPar = s.rxPar := by
  obtain ⟨ps, u, hu, -, h⟩ := acceptAndDrain_spec seq payload s
  rw [h]
  exact hu.rxPar

theorem rxArrival_rxPar (d : Datagram) (s : State) : (rxArrival d s).rxPar = s.rxPar := by
  unfold rxArrival
  rw [rxPktBody_eq_answerClass]
  cases classify (takeDatagram .pktIn d s).rx.lfr (takeDatagram .pktIn d s).rx.laf d with
  | malformed | badcrc | oow | eom => rfl
  | accept seq payload => exact acceptAndDrain_rxPar seq payload _

/-- Of the operations of RX only RX_START latches (R79). -/
theorem rxOp_rxPar {j : Instr} {s t : State} (hj : rxOp j = true) (hs : j ≠ .rxStart) (h : exec j s = .next t) :
    t.rxPar = s.rxPar := by
  obtain ⟨-, rfl⟩ := exec_next h
  cases j with
  | rxStart => exact absurd rfl hs
  | rxPkt _ | pktData _ _ _ | pktEom _ => exact rxArrival_rxPar _ _
  | rxReset | rxIofault => rfl
  | _ => simp [rxOp] at hj

/-- Settles O47: the engine's own operations latch at their start only, the other engine's are framed off. -/
theorem configurationIsLatchedAtStart : Obligations.ConfigurationIsLatchedAtStart := by
  intro i s t h
  rcases unit_cases i with hi | hi | hi
  · rw [codecOp_next hi h]
    exact ⟨rfl, rfl, rfl, fun _ => rfl, fun _ => rfl⟩
  · obtain ⟨hframe, -⟩ := txOp_frame hi h
    exact ⟨hframe.build, hframe.txCfg, hframe.rxCfg, fun hs => txOp_txPar hi hs h, fun _ => hframe.rxPar⟩
  · obtain ⟨hframe, -⟩ := rxOp_frame hi h
    exact ⟨hframe.build, hframe.txCfg, hframe.rxCfg, fun _ => hframe.txPar, fun hs => rxOp_rxPar hi hs h⟩

/-! ## The streams -/

/-- No operation changes the source, and none takes back what the sink holds (R66, R67). -/
theorem exec_streams {i : Instr} {s t : State} (h : exec i s = .next t) : t.src = s.src ∧ s.out <+: t.out := by
  rcases unit_cases i with hi | hi | hi
  · rw [codecOp_next hi h]
    exact ⟨rfl, List.prefix_rfl⟩
  · obtain ⟨hframe, -⟩ := txOp_frame hi h
    exact ⟨hframe.src, hframe.out ▸ List.prefix_rfl⟩
  · obtain ⟨e, he⟩ := rxOp_effect hi h
    obtain rfl := Host.Outcome.next.inj (h.symm.trans (he s ⟨rfl, rfl, rfl, rfl⟩))
    exact ⟨rfl, List.prefix_append s.out e.bytes⟩

/-- The environment supplies a stream to an idle engine only (R66, R67). -/
theorem EnvMove.streams {s t : State} (hm : EnvMove s t) :
    (s.tx.phase ≠ .idle → t.src = s.src) ∧ (s.rx.phase ≠ .idle → t.out = s.out) := by
  cases hm with
  | channel p c hc => cases p <;> exact ⟨fun _ => rfl, fun _ => rfl⟩
  | write reg v => exact ⟨fun _ => rfl, fun _ => rfl⟩
  | read reg =>
    obtain ⟨n, he⟩ := hostRead_eq reg s
    rw [he]
    exact ⟨fun _ => rfl, fun _ => rfl⟩
  | source bytes hi => exact ⟨fun hn => absurd hi hn, fun _ => rfl⟩
  | sink hi => exact ⟨fun _ => rfl, fun hn => absurd hi hn⟩

/-- Settles O53: an operation leaves the streams fixed in every phase, the host outside IDLE. -/
theorem streamsAreFixedForTheSession : Obligations.StreamsAreFixedForTheSession := by
  intro s t hstep
  rcases step_next hstep with rfl | ⟨i, rest, -, hrun⟩
  · exact ⟨fun _ => rfl, fun _ => List.prefix_rfl⟩
  · rcases runInput_next hrun with ⟨op, -, hexec, -⟩ | hmove
    · obtain ⟨hsrc, hout⟩ := exec_streams hexec
      exact ⟨fun _ => hsrc, fun _ => hout⟩
    · obtain ⟨hsrc, hout⟩ := hmove.streams
      exact ⟨hsrc, fun hn => hout hn ▸ List.prefix_rfl⟩

/-- Settles O60: the phase of the engine decides whether the host's stream is taken. -/
theorem hostSuppliesTheStreamsBeforeStart : Obligations.HostSuppliesTheStreamsBeforeStart := by
  refine fun s rest => ⟨fun bytes hin => ?_, fun hin => ?_⟩
  · have hstep : step s = hostSource bytes { s with inputs := rest } := step_of_input hin
    rw [hstep]
    exact ⟨fun hi => if_pos hi, fun hn => if_neg hn⟩
  · have hstep : step s = hostSink { s with inputs := rest } := step_of_input hin
    rw [hstep]
    exact ⟨fun hi => if_pos hi, fun hn => if_neg hn⟩

/-- Settles O24: a read finds no bytes exactly when `m = 0`, and otherwise moves the cursor past them. -/
theorem srcReadTakesTheMostItCan : Obligations.SrcReadTakesTheMostItCan := by
  intro s n m _ hm
  have hlen : (srcChunk n s).length = m := (srcChunk_length n s).trans hm.symm
  refine ⟨fun h0 => if_pos (List.length_eq_zero_iff.1 (hlen.trans h0)), fun hne => ?_⟩
  have hne : srcChunk n s ≠ [] := fun hnil => hne (by rw [← hlen, hnil]; rfl)
  refine ⟨srcChunk n s, by rw [srcRead, if_neg hne, hlen], hlen, fun j hj => ?_⟩
  rw [srcChunk, List.getElem?_take_of_lt (by omega), List.getElem?_drop]

/-! ## The stores -/

/-- A key is bound exactly where the store has an entry for it (R71). -/
theorem Store.get_isSome_iff {α : Type} {k : Int} {m : Store α} : (Store.get k m).isSome = true ↔ ∃ v, (k, v) ∈ m := by
  rw [Option.isSome_iff_exists]
  refine ⟨fun ⟨v, hv⟩ => ⟨v, Store.mem_of_get hv⟩, fun ⟨v, hv⟩ => ?_⟩
  exact Option.ne_none_iff_exists'.1 (Store.get_ne_none_of_mem hv)

/-- Records stored under their own numbers are listed in ascending order, each once (R69). -/
theorem winAscending_pairwise {s : State} (hw : Store.WF s.tx.window) (hkey : ∀ e ∈ s.tx.window, e.2.seq = e.1) :
    (winAscending s).Pairwise fun p q => p.seq < q.seq := by
  rw [winAscending, List.pairwise_map]
  exact hw.imp_of_mem fun he hf hlt => by rw [hkey _ he, hkey _ hf]; exact hlt

theorem mem_winAscending {s : State} (hkey : ∀ e ∈ s.tx.window, e.2.seq = e.1) {q : Packet} :
    q ∈ winAscending s ↔ (q.seq, q) ∈ s.tx.window := by
  refine ⟨fun hq => ?_, fun hq => List.mem_map.2 ⟨_, hq, rfl⟩⟩
  obtain ⟨e, he, rfl⟩ := List.mem_map.1 hq
  rw [hkey e he]
  exact he

/-- Settles O59: the laws of the stores, read on the window and on the reorder buffer. -/
theorem storePrimitivesAreMapOperations : Obligations.StorePrimitivesAreMapOperations := by
  intro s hw hb
  refine ⟨fun p => ⟨_, rfl, Store.put_wf hw, fun k q => Store.mem_put_iff hw⟩,
    fun b => ⟨_, rfl, Store.keepFrom_wf hw, fun k q => Store.mem_keepFrom.trans and_comm⟩,
    fun hkey => ⟨winAscending_pairwise hw hkey, fun q => mem_winAscending hkey⟩,
    fun key payload => ⟨_, rfl, Store.put_wf hb, fun k p => Store.mem_put_iff hb⟩,
    fun key => Store.get_isSome_iff,
    fun key payload hmem => ⟨Store.erase key s.rx.buf, ?_, Store.erase_wf hb,
      fun k p => Store.mem_erase.trans and_comm⟩⟩
  have hget : Store.get key s.rx.buf = some payload := Store.get_of_mem hb hmem
  rw [bufTake, hget]
  rfl

end Sys2Proof.Machine

/-! PROOFS. Encodings: the decoder and the encoder are inverse to each other (R90 to R99), reserved selectors (R100),
the classes of a data datagram (R96), and the step as the operation its input decodes to (R95, R98). -/

namespace Sys2Proof.Machine

/-! ## Encoding and decoding -/

/-- Settles O1: the round trips of the eighteen operations. -/
theorem decodeOfEncodeIsIdentity : Obligations.DecodeOfEncodeIsIdentity := by
  intro b i
  cases i with
  | crc32 payload => exact Laws.RoundTrip.crc32 payload b
  | encPkt seq checksum payload => exact Laws.RoundTrip.encPkt seq checksum payload b
  | decPkt d => exact Laws.RoundTrip.decPkt d b
  | encAck seq => exact Laws.RoundTrip.encAck seq b
  | decAck d => exact Laws.RoundTrip.decAck d b
  | txReset => exact Laws.RoundTrip.txReset b
  | txStart => exact Laws.RoundTrip.txStart b
  | txAck d => exact Laws.RoundTrip.txAck d b
  | txTimeout => exact Laws.RoundTrip.txTimeout b
  | txTick => exact Laws.RoundTrip.txTick b
  | txIofault => exact Laws.RoundTrip.txIofault b
  | rxReset => exact Laws.RoundTrip.rxReset b
  | rxStart => exact Laws.RoundTrip.rxStart b
  | rxPkt d => exact Laws.RoundTrip.rxPkt d b
  | rxIofault => exact Laws.RoundTrip.rxIofault b
  | pktData seq checksum payload => exact Laws.RoundTrip.pktData seq checksum payload b
  | pktEom seq => exact Laws.RoundTrip.pktEom seq b
  | ack seq rest => exact Laws.RoundTrip.ack seq rest b

/-- An event that decodes has the `len` of its data (R98). -/
theorem decodeEvent_ok {op : Byte} {len : Nat} {data : Bytes} {i : Instr} (h : decodeEvent op len data = .ok i) :
    data.length = len ∧ decodeSelector op data = .ok i := by
  unfold decodeEvent at h
  split at h
  · exact ⟨‹_›, h⟩
  · cases h

/-- Settles O2: each of the three decoders is read backwards, and the encoder writes what it read. -/
theorem encodeOfDecodeIsIdentity : Obligations.EncodeOfDecodeIsIdentity := by
  intro e i h
  cases e with
  | event op len data =>
    obtain ⟨rfl, hsel⟩ := decodeEvent_ok h
    exact encode_of_decodeSelector hsel
  | datagram p d =>
    cases p with
    | pktIn => rcases decodePktIn_cases h with ⟨seq, checksum, payload, rfl, rfl, -⟩ | ⟨seq, rfl, rfl⟩ <;> rfl
    | ackIn =>
      obtain ⟨seq, rest, rfl, rfl⟩ := decodeAckIn_cases h
      rfl

/-- Settles O3: the decoder evaluated on the words of the tables. -/
theorem writtenOutWordsDecode : Obligations.WrittenOutWordsDecode :=
  ⟨rfl, rfl, rfl, rfl, rfl, rfl, rfl, rfl⟩

/-! ## Reserved selectors -/

theorem noOperand_ne_reserved (data : Bytes) (i : Instr) : noOperand data i ≠ .error .reservedSelector := by
  unfold noOperand
  split <;> nofun

theorem decodeEncPkt_ne_reserved (data : Bytes) : decodeEncPkt data ≠ .error .reservedSelector := by
  unfold decodeEncPkt
  split <;> nofun

theorem decodeEncAck_ne_reserved (data : Bytes) : decodeEncAck data ≠ .error .reservedSelector := by
  unfold decodeEncAck
  split <;> nofun

/-- The codes of R99. -/
def selectorCodes : List Byte :=
  [0x00#8, 0x01#8, 0x02#8, 0x03#8, 0x04#8, 0x10#8, 0x11#8, 0x12#8, 0x13#8, 0x14#8, 0x15#8, 0x20#8, 0x21#8, 0x22#8,
    0x23#8]

/-- The decoder answers `reservedSelector` for the codes that R99 does not list, and for no operand of a listed one
(R100). -/
theorem decodeSelector_eq_reserved_iff {op : Byte} {data : Bytes} :
    decodeSelector op data = .error .reservedSelector ↔ op ∉ selectorCodes := by
  unfold decodeSelector
  split <;> rename_i hc
  case h_16 =>
    refine iff_of_true rfl ?_
    simp only [selectorCodes, List.mem_cons, List.not_mem_nil, or_false, not_or, ← BitVec.toNat_inj]
    and_intros <;> assumption
  all_goals
    have hop : op = BitVec.ofNat 8 op.toNat := by simp
    rw [hc] at hop
    subst hop
    refine iff_of_false ?_ (by decide)
  case h_1 | h_3 | h_5 | h_8 | h_14 => nofun
  case h_2 => exact decodeEncPkt_ne_reserved data
  case h_4 => exact decodeEncAck_ne_reserved data
  all_goals exact noOperand_ne_reserved data _

/-- An operation, enabled or not, is no selector that is rejected (R100, R203). -/
theorem exec_ne_reserved (i : Instr) (s : State) : exec i s ≠ .fault .reservedSelector := by
  obtain ⟨b, -, hexec⟩ := exec_eq_whenEnabled i s
  rw [hexec]
  cases b <;> simp [whenEnabled]

theorem runInstr_ne_reserved (i : Instr) (s : State) : runInstr i s ≠ .fault .reservedSelector := by
  unfold runInstr
  split
  · exact exec_ne_reserved i s
  · nofun

/-- An event is rejected for its selector exactly when the decoder rejects it (R100). -/
theorem runEvent_eq_reserved_iff {op : Byte} {len : Nat} {data : Bytes} {s : State} :
    runEvent op len data s = .fault .reservedSelector ↔ decode (.event op len data) = .error .reservedSelector := by
  unfold runEvent
  split
  next i hi => exact iff_of_false (runInstr_ne_reserved i s) (by simp [hi])
  next hres => exact iff_of_true rfl hres
  next e hne he => exact iff_of_false nofun fun hres => hne (Except.error.inj (he.symm.trans hres))

/-- Settles O4: `step` takes the event, and the decoder rejects the codes that R99 does not list. -/
theorem reservedSelectorHasNoTransition : Obligations.ReservedSelectorHasNoTransition := by
  intro s op data rest hin
  calc step s = .fault .reservedSelector
      ↔ runEvent op data.length data { s with inputs := rest } = .fault .reservedSelector := by
        rw [step_of_input hin]; rfl
    _ ↔ decode (mkEvent op data) = .error .reservedSelector := runEvent_eq_reserved_iff
    _ ↔ op ∉ selectorCodes := by rw [decodeEvent_mkEvent, decodeSelector_eq_reserved_iff]

/-! ## The classes of a data datagram -/

theorem classify_of_decPkt_none {lfr laf : Int} {d : Datagram} (h : decPkt d = none) :
    classify lfr laf d = .malformed := by
  rw [classify, h]

/-- The tests of R96 on a datagram that decodes, in their order. -/
theorem classify_of_decPkt {lfr laf : Int} {d : Datagram} {p : Packet} (h : decPkt d = some p) :
    classify lfr laf d =
      if crc32 p.payload ≠ p.checksum then .badcrc
      else if p.payload = eomPayload then .eom
      else if lfr < p.seq ∧ p.seq ≤ laf then .accept p.seq p.payload
      else .oow := by
  simp only [classify, h, Bool.not_eq_true', ← Bool.not_eq_true, verify_iff, isEom, beq_iff_eq, ne_eq]

/-- A packet with a good checksum and the payload FF is the end-marker, whatever the window (R96). -/
theorem classify_eq_eom_iff {lfr laf : Int} {d : Datagram} {p : Packet} (h : decPkt d = some p) :
    classify lfr laf d = .eom ↔ p.checksum = 0xFF000000#32 ∧ p.payload = eomPayload := by
  rw [classify_of_decPkt h]
  constructor
  · intro heom
    split_ifs at heom with hcrc hp
    exact ⟨by rw [← not_not.1 hcrc, hp, crc32_eom], hp⟩
  · rintro ⟨hc, hp⟩
    rw [hc, hp, if_neg (not_not.2 crc32_eom), if_pos rfl]

/-- What follows the number field of a data packet (R90). -/
theorem drop_four_of_decPkt {d : Datagram} {p : Packet} (h : decPkt d = some p) :
    d.drop 4 = be32 p.checksum ++ p.payload := by
  rw [← encPkt_decPkt h]
  rfl

theorem be32_injective {v w : Word} (h : be32 v = be32 w) : v = w := by
  simp only [be32, List.cons.injEq, and_true] at h
  obtain ⟨h0, h1, h2, h3⟩ := h
  rw [← unbe32_be32 v, h0, h1, h2, h3, unbe32_be32]

/-- The fields of the end-marker are its last five bytes (R94). -/
theorem eom_bytes_iff {d : Datagram} {p : Packet} (h : decPkt d = some p) :
    d.drop 4 = be32 0xFF000000#32 ++ eomPayload ↔ p.checksum = 0xFF000000#32 ∧ p.payload = eomPayload := by
  rw [drop_four_of_decPkt h]
  refine ⟨fun he => ?_, fun ⟨hc, hp⟩ => by rw [hc, hp]⟩
  obtain ⟨hc, hp⟩ := List.append_inj he rfl
  exact ⟨be32_injective hc, hp⟩

/-- The end-markers are the nine-byte datagrams that end in FF 00 00 00 FF (R94, R96). -/
theorem classify_eq_eom_iff_bytes {lfr laf : Int} {d : Datagram} :
    classify lfr laf d = .eom ↔ d.length = 9 ∧ d.drop 4 = be32 0xFF000000#32 ++ eomPayload := by
  cases hdec : decPkt d with
  | none =>
    have hlen := decPkt_eq_none.1 hdec
    rw [classify_of_decPkt_none hdec]
    exact iff_of_false nofun fun ⟨h9, _⟩ => by omega
  | some p =>
    rw [classify_eq_eom_iff hdec, eom_bytes_iff hdec, iff_and_self]
    rintro ⟨-, hp⟩
    rw [decPkt_length hdec, hp]
    rfl

/-- Settles O13: the class by the decoded fields, and the end-marker by its bytes. -/
theorem classesOfADataDatagram : Obligations.ClassesOfADataDatagram := fun _ _ =>
  ⟨fun _ hlen => classify_of_decPkt_none (decPkt_eq_none.2 hlen),
    fun _ _ _ _ _ _ _ _ _ => by rw [classify_of_decPkt rfl]; rfl,
    fun _ => classify_eq_eom_iff_bytes⟩

/-! ## The step -/

theorem runInstr_of_wellFormed {i : Instr} {s : State} (h : i.wellFormed s.build = true) : runInstr i s = exec i s :=
  if_pos h

theorem runEvent_of_decode {op : Byte} {len : Nat} {data : Bytes} {i : Instr}
    (h : decode (.event op len data) = .ok i) (s : State) : runEvent op len data s = runInstr i s := by
  simp only [runEvent, h]

theorem arrivalInstr_of_decode {p : Port} {d : Datagram} {i : Instr} (h : decode (.datagram p d) = .ok i) :
    arrivalInstr p d = i := by
  simp only [arrivalInstr, h]

/-- Settles O48: an event and a delivery run the operation they decode to. -/
theorem stepRunsTheDecodedInstruction : Obligations.StepRunsTheDecodedInstruction := by
  refine fun s => ⟨fun op len data rest i hin hdec hwf => ?_, fun p d rest i hin hmem hdec hwf => ?_, fun hin => ?_⟩
  · calc step s = runEvent op len data { s with inputs := rest } := step_of_input hin
      _ = runInstr i { s with inputs := rest } := runEvent_of_decode hdec _
      _ = exec i { s with inputs := rest } := runInstr_of_wellFormed hwf
  · have hmem : d ∈ State.channel p { s with inputs := rest } := by cases p <;> exact hmem
    calc step s = runDeliver p d { s with inputs := rest } := step_of_input hin
      _ = runInstr (arrivalInstr p d) { s with inputs := rest } := inFlight_of_mem hmem _
      _ = runInstr i { s with inputs := rest } := by rw [arrivalInstr_of_decode hdec]
      _ = exec i { s with inputs := rest } := runInstr_of_wellFormed hwf
  · simp only [step, nextInput, hin]

end Sys2Proof.Machine

/-! PROOFS. The CODEC unit: what each of its operations answers (R120 to R127, R129 to R131), the two forms of the
checksum (R121, R122) and the corrupted packet (R132). -/

namespace Sys2Proof.Machine

/-! ## The CODEC operations -/

/-- The state a CODEC operation leaves: its result stands in the trace line, the rest is as before (R120). -/
def answering (r : Result) (s : State) : State :=
  { s with last := { labels := [], effects := [], result := some r } }

theorem whenEnabled_setResult (r : Result) (s : State) : whenEnabled true (setResult r) s = .next (answering r s) := rfl

theorem exec_crc32 (payload : Bytes) (s : State) :
    exec (.crc32 payload) s = .next (answering (.checksum (crc32 payload)) s) := rfl

theorem exec_encPkt (seq checksum : Word) (payload : Bytes) (s : State) :
    exec (.encPkt seq checksum payload) s = .next (answering (.datagram (pktDataBytes seq checksum payload)) s) := by
  rw [exec, execEncPkt, encPkt, u32_s32, whenEnabled_setResult, pktDataBytes]

theorem exec_decPkt_of_some {d : Datagram} {p : Packet} (h : decPkt d = some p) (s : State) :
    exec (.decPkt d) s = .next (answering (.packet p) s) := by
  rw [exec, execDecPkt, h, whenEnabled_setResult]

theorem exec_decPkt_of_none {d : Datagram} (h : decPkt d = none) (s : State) :
    exec (.decPkt d) s = .next (answering .malformedPacket s) := by
  rw [exec, execDecPkt, h, whenEnabled_setResult]

theorem exec_encAck (seq : Word) (s : State) :
    exec (.encAck seq) s = .next (answering (.datagram (be32 seq)) s) := by
  rw [exec, execEncAck, encAck, u32_s32, whenEnabled_setResult]

theorem exec_decAck_of_some {d : Datagram} {v : Int} (h : decAck d = some v) (s : State) :
    exec (.decAck d) s = .next (answering (.ackValue v) s) := by
  rw [exec, execDecAck, h, whenEnabled_setResult]

theorem exec_decAck_of_none {d : Datagram} (h : decAck d = none) (s : State) :
    exec (.decAck d) s = .next (answering .malformedAck s) := by
  rw [exec, execDecAck, h, whenEnabled_setResult]

/-- Settles O5: a decoder's result is one or the other by its operand alone, before any state is seen. -/
theorem codecOperationsArePure : Obligations.CodecOperationsArePure := by
  intro i hi
  cases i with
  | crc32 payload => exact ⟨_, exec_crc32 payload⟩
  | encPkt seq checksum payload => exact ⟨_, exec_encPkt seq checksum payload⟩
  | decPkt d =>
    cases h : decPkt d with
    | none => exact ⟨_, exec_decPkt_of_none h⟩
    | some p => exact ⟨_, exec_decPkt_of_some h⟩
  | encAck seq => exact ⟨_, exec_encAck seq⟩
  | decAck d =>
    cases h : decAck d with
    | none => exact ⟨_, exec_decAck_of_none h⟩
    | some v => exact ⟨_, exec_decAck_of_some h⟩
  | _ => cases hi

/-- Settles O9: the encoders by the operand's bytes, the decoders by the length that R124 and R126 ask for. -/
theorem framingOperationResults : Obligations.FramingOperationResults := fun s =>
  ⟨fun seq checksum payload => exec_encPkt seq checksum payload s,
    fun _ _ _ _ _ _ _ _ _ => exec_decPkt_of_some rfl s,
    fun _ hlen => exec_decPkt_of_none (decPkt_eq_none.2 hlen) s,
    fun seq => exec_encAck seq s,
    fun _ _ _ _ _ => exec_decAck_of_some rfl s,
    fun _ hlen => exec_decAck_of_none (decAck_eq_none.2 hlen) s⟩

/-! ## Framing and the helper predicates -/

/-- A datagram of eight bytes or more is the encoding of what it decodes to (R127). -/
theorem exists_decPkt_of_length {d : Datagram} (h : 8 ≤ d.length) : ∃ p, decPkt d = some p ∧ encPkt p = d := by
  cases hdec : decPkt d with
  | none => exact absurd (decPkt_eq_none.1 hdec) (by omega)
  | some p => exact ⟨p, rfl, encPkt_decPkt hdec⟩

/-- Settles O10: the round trips of packets and ACKs, and the wrap of 2^31 to -2^31. -/
theorem framingRoundTrips : Obligations.FramingRoundTrips :=
  ⟨fun _ _ _ hlo hhi => decPkt_encPkt hlo hhi, fun _ => exists_decPkt_of_length, fun _ => decAck_encAck, by decide⟩

theorem eq_singleton_iff_length_getElem? {p : Bytes} {b : Byte} : p = [b] ↔ p.length = 1 ∧ p[0]? = some b := by
  cases p with
  | nil => simp
  | cons c p => simp [and_comm]

/-- Settles O11: VERIFY, MK_PKT and IS_EOM. -/
theorem helperPredicates : Obligations.HelperPredicates :=
  ⟨fun _ _ => verify_iff, fun _ _ => rfl, fun _ => isEom_iff.trans eq_singleton_iff_length_getElem?⟩

/-! ## The checksum -/

/-- The last shift of the loop split off, where the definition splits off the first. -/
theorem crcBits_succ_last (n : Nat) (crc : Word) : crcBits (n + 1) crc = crcBit (crcBits n crc) := by
  induction n generalizing crc with
  | zero => rfl
  | succ n ih => exact ih (crcBit crc)

theorem crcBits_eq_repeat (n : Nat) (crc : Word) : crcBits n crc = Nat.repeat crcBit n crc := by
  induction n with
  | zero => rfl
  | succ n ih => exact (crcBits_succ_last n crc).trans (congrArg crcBit ih)

theorem crcByte_eq_repeat : crcByte = fun crc b => Nat.repeat crcBit 8 (crc ^^^ b.setWidth 32) :=
  funext₂ fun _ _ => crcBits_eq_repeat 8 _

/-- Settles O6: the eight-shift loop of the model is the loop of the rule. -/
theorem crc32FollowsItsPseudocode : Obligations.Crc32FollowsItsPseudocode := by
  intro s payload
  rw [exec_crc32, crc32, crcByte_eq_repeat]
  rfl

/-- Settles O7, by running the algorithm on the eight payloads. -/
theorem crc32ExampleValues : Obligations.Crc32ExampleValues := by
  unfold Obligations.Crc32ExampleValues
  decide +kernel

/-- One shift as a sum: the polynomial is added when bit 0 is set. -/
theorem crcBit_eq_xor (crc : Word) : crcBit crc = crc >>> 1 ^^^ if crc.getLsbD 0 then 0xEDB88320#32 else 0#32 := by
  unfold crcBit
  split <;> simp

theorem crcBit_xor (a b : Word) : crcBit (a ^^^ b) = crcBit a ^^^ crcBit b := by
  have poly : (if (a ^^^ b).getLsbD 0 then 0xEDB88320#32 else 0#32) =
      (if a.getLsbD 0 then 0xEDB88320#32 else 0#32) ^^^ (if b.getLsbD 0 then 0xEDB88320#32 else 0#32) := by
    rw [BitVec.getLsbD_xor]
    cases a.getLsbD 0 <;> cases b.getLsbD 0 <;> rfl
  rw [crcBit_eq_xor, crcBit_eq_xor a, crcBit_eq_xor b, poly, BitVec.ushiftRight_xor_distrib]
  ac_rfl

theorem crcBits_xor (n : Nat) (a b : Word) : crcBits n (a ^^^ b) = crcBits n a ^^^ crcBits n b := by
  induction n generalizing a b with
  | zero => rfl
  | succ n ih => rw [crcBits, crcBit_xor, ih, crcBits, crcBits]

/-- While the bits that leave the register are 0 the loop only shifts. -/
theorem crcBits_of_low_zero {n : Nat} {a : Word} (h : ∀ i < n, a.getLsbD i = false) : crcBits n a = a >>> n := by
  induction n generalizing a with
  | zero => rfl
  | succ n ih =>
    have hbit : crcBit a = a >>> 1 := if_neg (Bool.eq_false_iff.1 (h 0 n.succ_pos))
    rw [crcBits, hbit, ih fun i hi => ?_, ← BitVec.shiftRight_add, Nat.add_comm]
    rw [BitVec.getLsbD_ushiftRight]
    exact h (1 + i) (by omega)

/-- A register is its upper 24 bits and its low byte. -/
theorem eq_high_xor_lowByte (a : Word) : a = a >>> 8 <<< 8 ^^^ (a.extractLsb' 0 8).setWidth 32 := by
  apply BitVec.eq_of_getLsbD_eq
  intro i hi
  by_cases hlow : i < 8
  · simp [hi, hlow]
  · simp [hi, hlow, show 8 + (i - 8) = i by omega]

/-- A byte at bits 7..0 does not reach the bits that a shift by eight keeps. -/
theorem xor_byte_ushiftRight_eight (crc : Word) (b : Byte) : (crc ^^^ b.setWidth 32) >>> 8 = crc >>> 8 := by
  have hb : b.setWidth 32 >>> 8 = 0#32 := by
    apply BitVec.eq_of_getLsbD_eq
    intro i hi
    simp
  rw [BitVec.ushiftRight_xor_distrib, hb, BitVec.xor_zero]

/-- R122 (c) for a whole register: eight shifts are one shift by eight and one table entry. -/
theorem crcBits_eight (a : Word) : crcBits 8 a = a >>> 8 ^^^ crcBits 8 ((a.extractLsb' 0 8).setWidth 32) := by
  have high : crcBits 8 (a >>> 8 <<< 8) = a >>> 8 := by
    rw [crcBits_of_low_zero fun i hi => by simp [hi], ← xor_byte_ushiftRight_eight _ (a.extractLsb' 0 8),
      ← eq_high_xor_lowByte]
  calc crcBits 8 a = crcBits 8 (a >>> 8 <<< 8 ^^^ (a.extractLsb' 0 8).setWidth 32) := by rw [← eq_high_xor_lowByte]
    _ = a >>> 8 ^^^ crcBits 8 ((a.extractLsb' 0 8).setWidth 32) := by rw [crcBits_xor, high]

/-- Settles O8: the shift is linear, the upper 24 bits only move, and the low byte contributes its table entry. -/
theorem crc32ByteTableForm : Obligations.Crc32ByteTableForm := by
  refine ⟨fun crc b => ?_, by decide⟩
  rw [crcByte, crcBits_eight, xor_byte_ushiftRight_eight]

/-! ## The corrupted packet -/

/-- CORRUPT on a datagram with a byte at offset 8 (R132). -/
theorem corrupt_of_getElem? : ∀ {d : Datagram} {x : Byte}, d[8]? = some x →
    corrupt d = d.take 8 ++ (x ^^^ 0x01#8) :: d.drop 9
  | _ :: _ :: _ :: _ :: _ :: _ :: _ :: _ :: _ :: _, _, rfl => rfl

/-- Settles O12: the corrupted packet still decodes, and its checksum does not fit. -/
theorem corruptedPacketIsAlwaysBadCrc : Obligations.CorruptedPacketIsAlwaysBadCrc := by
  refine ⟨fun _ _ => corrupt_of_getElem?, fun lfr laf n payload hne => ?_⟩
  obtain ⟨p, hdec, hver⟩ := verify_corrupt (seq := n) hne
  have hcrc : crc32 p.payload ≠ p.checksum := mt verify_iff.2 (ne_true_of_eq_false hver)
  rw [classify_of_decPkt hdec, if_pos hcrc]

end Sys2Proof.Machine

/-! PROOFS. The sender's operations one by one (R141 to R147), the transitions of its phase (R148), and what it never
takes back (R150). -/

namespace Sys2Proof.Machine

/-! ## Reset, I/O fault and tick -/

/-- An enabled operation runs its body on a new trace line (R203). -/
theorem exec_of_enabled {i : Instr} {s : State} (h : Enabled i s) : exec i s = .next (execBody i (clearReply s)) := by
  obtain ⟨b, hb, hexec⟩ := exec_eq_whenEnabled i s
  rw [hexec, whenEnabled_of_enabled (hb.2 h)]

/-- Settles O15: TX_RESET is enabled in every phase and writes the initial registers. -/
theorem txResetGivesTheInitialSender : Obligations.TxResetGivesTheInitialSender := fun _ =>
  exec_of_enabled trivial

/-- Settles O18: the two phases are the ones that enable TX_IOFAULT, and its body is the raise. -/
theorem txIofaultStopsTheSender : Obligations.TxIofaultStopsTheSender := fun _ hphase =>
  exec_of_enabled hphase

/-- Settles O31: the premises enable TX_TICK, and its body takes one from the count. -/
theorem tickCountsDown : Obligations.TickCountsDown := fun _ hwait hcnt htimed =>
  exec_of_enabled ⟨hwait, hcnt, htimed⟩

/-! ## TX_FILL -/

theorem txFillMore_iff {s : State} :
    txFillMore s = true ↔ s.tx.window.length < s.txPar.sws ∧ s.tx.eomQueued = false := by
  simp [txFillMore]

/-- With no number left and something to send, TX_FILL raises before its first iteration (R143, R197). -/
theorem txFill_exhausted {s : State} (hmore : txFillMore s = true) (hnext : seqMax < s.tx.nextSeqNum) :
    txFill s = .raised (raise .tx .seqExhausted s) := by
  simp [txFill, txFillLoop, hmore, hnext]

theorem FillFrom.next_le {s t : State} {j : Nat} (h : FillFrom s j t) (hs : s.tx.nextSeqNum ≤ 2147483648) :
    t.tx.nextSeqNum ≤ 2147483648 := by
  rcases h.numbers with rfl | hle
  · rw [h.nextSeqNum]; exact hs
  · exact hle

/-- TX_FILL stores only packets numbered from `nextSeqNum` on (R143). -/
theorem FillFrom.keys_gt {s t : State} {j : Nat} (h : FillFrom s j t) {a : Int} (hnext : a < s.tx.nextSeqNum)
    (hs : ∀ e ∈ s.tx.window, a < e.1) : ∀ e ∈ t.tx.window, a < e.1 := by
  intro e he
  rw [h.window, List.mem_append] at he
  rcases he with he | he
  · exact hs e he
  · obtain ⟨p, hp, rfl⟩ := List.mem_map.1 he
    obtain ⟨i, -, rfl⟩ := mem_newPackets hp
    simp only [streamPacket_seq]
    omega

/-! ## TX_ACK -/

/-- The state TX_ACK works on: a new trace line, the datagram taken from the channel (R73, R144). -/
def ackTaken (d : Datagram) (s : State) : State :=
  takeDatagram .ackIn d (clearReply s)

/-- The state after the advance to an ACK for `a` (R144). -/
def ackAdvanced (d : Datagram) (a : Int) (s : State) : State :=
  { ackTaken d s with
    tx := { s.tx with base := (a + 1).toNat, window := s.tx.window.filter fun e => decide (a + 1 ≤ e.1) } }

theorem ackAdvance_of_malformed {d : Datagram} (h : decAck d = none) (s : State) :
    ackAdvance d s = (.malformedAck, s) := by
  simp only [ackAdvance, h]

theorem ackAdvance_of_stale {d : Datagram} {a : Int} {s : State} (h : decAck d = some a) (hlt : a < s.tx.base) :
    ackAdvance d s = (.stale, s) := by
  simp only [ackAdvance, h, if_neg (Int.not_le.2 hlt)]

theorem ackAdvance_of_advance {d : Datagram} {a : Int} {s : State} (h : decAck d = some a) (hle : s.tx.base ≤ a) :
    ackAdvance d (ackTaken d s) = (.advance, ackAdvanced d a s) := by
  rcases ackAdvance_cases d (ackTaken d s) with ⟨hd, -⟩ | ⟨x, hd, hlt, -⟩ | ⟨x, hd, -, he⟩
  · cases h.symm.trans hd
  · cases h.symm.trans hd
    exact absurd hle (Int.not_le.2 hlt)
  · cases h.symm.trans hd
    exact he

/-- An ACK that ends the session: the advance, and then `TX_DONE` (R144). -/
theorem exec_ack_of_ends {i : Instr} {s : State} {d : Datagram} (hi : ackDatagram i = some d)
    (hw : s.tx.phase = .wait) (hends : AckEnds d s) {l : Label} {u : State}
    (hadv : ackAdvance d (ackTaken d s) = (l, u)) :
    exec i s = .next (setLabels [l, .done] (endSession .done u)) := by
  rw [exec_of_ackDatagram hi hw]
  rcases txAckBody_eq d (ackTaken d s) with ⟨-, he⟩ | ⟨hn, -⟩
  · rw [hadv] at he
    exact congrArg Host.Outcome.next he
  · exact absurd hends hn

/-- An ACK that does not end it: the advance, TX_FILL, and the timer loaded (R144). -/
theorem exec_ack_of_not_ends {i : Instr} {s : State} {d : Datagram} (hi : ackDatagram i = some d)
    (hw : s.tx.phase = .wait) (hends : ¬ AckEnds d s) {l : Label} {u : State}
    (hadv : ackAdvance d (ackTaken d s) = (l, u)) :
    exec i s = .next ((txFill u).andThen fun t => setLabels [l] (loadTimer t)) := by
  rw [exec_of_ackDatagram hi hw]
  rcases txAckBody_eq d (ackTaken d s) with ⟨hy, -⟩ | ⟨-, he⟩
  · exact absurd hy hends
  · rw [hadv] at he
    exact congrArg Host.Outcome.next he

/-- Settles O26: the three outcomes of the advance, each followed by the end of the session. -/
theorem ackOfTheEndMarkerEndsTheSession : Obligations.AckOfTheEndMarkerEndsTheSession := by
  refine fun i s d hw hi hends => ⟨fun a ha hle => exec_ack_of_ends hi hw hends (ackAdvance_of_advance ha hle), ?_⟩
  rintro l (⟨hd, rfl⟩ | ⟨a, ha, hlt, rfl⟩)
  · exact exec_ack_of_ends hi hw hends (ackAdvance_of_malformed hd _)
  · exact exec_ack_of_ends hi hw hends (ackAdvance_of_stale ha hlt)

/-- An ACK that does not advance leaves TX_FILL nothing to do, since it had nothing to do before (R144). -/
theorem exec_ack_of_ignored {i : Instr} {s : State} {d : Datagram} (hinv : Inv s) (hi : ackDatagram i = some d)
    (hw : s.tx.phase = .wait) (hends : ¬ AckEnds d s) {l : Label}
    (hadv : ackAdvance d (ackTaken d s) = (l, ackTaken d s)) :
    exec i s = .next (setLabels [l] (loadTimer (ackTaken d s))) := by
  have hfilled : txFillMore (ackTaken d s) = false := hinv.tx.filled hw
  rw [exec_ack_of_not_ends hi hw hends hadv, txFill_zero hfilled, Flow.andThen_completed]

/-- Settles O25: neither ACK advances, so only the timer is loaded. -/
theorem ignoredAckReloadsTheTimer : Obligations.IgnoredAckReloadsTheTimer := fun _ _ _ hinv hw hi hends =>
  ⟨fun hd => exec_ack_of_ignored hinv hi hw hends (ackAdvance_of_malformed hd _),
    fun _ ha hlt => exec_ack_of_ignored hinv hi hw hends (ackAdvance_of_stale ha hlt)⟩

/-- An advancing ACK that does not end the session: TX_FILL runs from the advanced state, and completes or raises
(R143, R144). -/
theorem exec_ack_of_advance {i : Instr} {s : State} {d : Datagram} {a : Int} (hinv : Inv s)
    (hi : ackDatagram i = some d) (hw : s.tx.phase = .wait) (ha : decAck d = some a) (hle : s.tx.base ≤ a)
    (hends : ¬ AckEnds d s) :
    ∃ j v, FillFrom (ackAdvanced d a s) j v ∧
      ((txFillMore v = false ∧ exec i s = .next (setLabels [.advance] (loadTimer v))) ∨
       (txFillMore v = true ∧ seqMax < v.tx.nextSeqNum ∧ exec i s = .next (raise .tx .seqExhausted v))) := by
  have hexec := exec_ack_of_not_ends hi hw hends (ackAdvance_of_advance ha hle)
  have hpos : StreamPos (ackAdvanced d a s) := ⟨hinv.tx.streaming, hinv.tx.ended⟩
  have hkeys : ∀ e ∈ (ackAdvanced d a s).tx.window, e.1 < s.tx.nextSeqNum := fun e he =>
    hinv.tx.keys_lt e (List.mem_of_mem_filter he)
  rcases txFill_spec (s := ackAdvanced d a s) (hinv.tx.legal hw).pktSize_pos hpos hkeys with
    ⟨j, v, hv, hfrom, hmore⟩ | ⟨j, v, hfrom, hmore, hn, hv⟩
  · exact ⟨j, v, hfrom, .inl ⟨hmore, by rw [hexec, hv, Flow.andThen_completed]⟩⟩
  · exact ⟨j, v, hfrom, .inr ⟨hmore, hn, by rw [hexec, hv, Flow.andThen_raised]⟩⟩

/-- Settles O27: the loop condition of TX_FILL tells the two ends apart. -/
theorem ackAdvancesAndRefills : Obligations.AckAdvancesAndRefills := by
  rintro i s u d a hinv hw hi ha hle hends rfl
  obtain ⟨j, v, hfrom, hv⟩ := exec_ack_of_advance hinv hi hw ha hle hends
  have hsws : v.txPar.sws = s.txPar.sws := congrArg TxParams.sws hfrom.txPar
  have htimeout : v.txPar.timeoutTicks = s.txPar.timeoutTicks := congrArg TxParams.timeoutTicks hfrom.txPar
  have hmore_iff := txFillMore_iff (s := v)
  rw [hsws] at hmore_iff
  refine ⟨j, v, hfrom, fun hfull => ?_, fun hshort => ?_⟩
  · have hmore : txFillMore v ≠ true := by
      rw [Ne, hmore_iff]
      rintro ⟨hlt, hq⟩
      exact hfull.elim hlt.ne (by simp [hq])
    obtain ⟨-, hexec⟩ := hv.resolve_right fun h => hmore h.1
    rw [hexec, ← htimeout]
    rfl
  · have hmore : txFillMore v = true := hmore_iff.2 hshort
    obtain ⟨-, hnext, hexec⟩ := hv.resolve_left fun h => by simp [hmore] at h
    have hle := hfrom.next_le hinv.tx.next_le
    unfold seqMax at hnext
    exact ⟨by omega, hexec⟩

/-- Settles O28: TX_FILL raises before its first iteration, on the advanced state. -/
theorem seqExhaustedStopsTheSender : Obligations.SeqExhaustedStopsTheSender := by
  intro i s d a hinv hw hi ha hle hq hnext hroom
  have hends : ¬ AckEnds d s := fun ⟨hqueued, _⟩ => by simp [hq] at hqueued
  have hmore : txFillMore (ackAdvanced d a s) = true := txFillMore_iff.2 ⟨hroom, hq⟩
  have hlast : seqMax < (ackAdvanced d a s).tx.nextSeqNum := Nat.lt_of_lt_of_eq (by decide) hnext.symm
  rw [exec_ack_of_not_ends hi hw hends (ackAdvance_of_advance ha hle), txFill_exhausted hmore hlast]
  rfl

/-- Settles O29: the advance evicts the keys up to `a`, and TX_FILL adds only keys from `nextSeqNum` on. -/
theorem ackIsCumulative : Obligations.AckIsCumulative := by
  intro i s t d a hinv hi ha hle hsane hexec
  have hw : s.tx.phase = .wait := by
    have hen := (exec_next hexec).1
    cases i <;> simp only [ackDatagram, reduceCtorEq] at hi <;> exact hen
  have hbase : ((a + 1).toNat : Int) = a + 1 := by omega
  have hkeys : ∀ e ∈ (ackAdvanced d a s).tx.window, a < e.1 := fun e he =>
    of_decide_eq_true (List.mem_filter.1 he).2
  by_cases hends : AckEnds d s
  · obtain rfl := Host.Outcome.next.inj
      (hexec.symm.trans (exec_ack_of_ends hi hw hends (ackAdvance_of_advance ha hle)))
    exact ⟨hbase, hkeys⟩
  · obtain ⟨j, v, hfrom, hv⟩ := exec_ack_of_advance hinv hi hw ha hle hends
    have hvbase : (v.tx.base : Int) = a + 1 := by rw [hfrom.base]; exact hbase
    have hvkeys := hfrom.keys_gt hsane hkeys
    rcases hv with ⟨-, he⟩ | ⟨-, -, he⟩ <;> obtain rfl := Host.Outcome.next.inj (hexec.symm.trans he) <;>
      exact ⟨hvbase, hvkeys⟩

/-! ## TX_TIMEOUT -/

/-- The control registers of TX after a timeout that gives up (R146). -/
def gaveUpTx (s : State) : TxState :=
  { s.tx with finalTimeouts := s.tx.finalTimeouts + 1, phase := .gaveup, timerArmed := false, timerCnt := 0 }

/-- The control registers of TX after a timeout that waits again; with the end-marker queued it is counted (R29,
R146). -/
def waitAgainTx (s : State) : TxState :=
  { s.tx with
    finalTimeouts := if s.tx.eomQueued = true ∧ s.txPar.finalTimeouts ≠ none then s.tx.finalTimeouts + 1
      else s.tx.finalTimeouts
    timerCnt := s.txPar.timeoutTicks }

theorem waitAgain_of_filled {s : State} (h : txFillMore s = false) (n : Nat) :
    waitAgain n s = setLabels [.retransmit n] (loadTimer s) := by
  rw [waitAgain, txFill_zero h, Flow.andThen_completed]

/-- A timeout in a filled session is the retransmission and the new control registers (R146). -/
theorem txTimeoutBody_of_filled {s : State} (hfilled : txFillMore s = false) :
    ∃ x ls, txTimeoutBody s = setLabels ls { resend (winAscending s) s with tx := x } ∧
      (TimeoutEnds s → x = gaveUpTx s ∧ ls = [.retransmit s.tx.window.length, .gaveup]) ∧
      (¬ TimeoutEnds s → x = waitAgainTx s ∧ ls = [.retransmit s.tx.window.length]) := by
  obtain ⟨-, htx, hpar, -⟩ := resend_spec (winAscending s) s
  have hresent : txFillMore (resend (winAscending s) s) = false := by
    simpa only [txFillMore, htx, hpar] using hfilled
  have hcounted : txFillMore (countTimeout (resend (winAscending s) s)) = false := hresent
  rcases txTimeoutBody_cases s with ⟨hends, he⟩ | ⟨hends, hq, hlim, he⟩ | ⟨hends, hcount, he⟩ <;> rw [he]
  · refine ⟨gaveUpTx s, _, ?_, fun _ => ⟨rfl, rfl⟩, fun hn => absurd hends hn⟩
    rw [gaveUpTx, ← htx]
    rfl
  · refine ⟨waitAgainTx s, _, ?_, fun hy => absurd hy hends, fun _ => ⟨rfl, rfl⟩⟩
    rw [waitAgain_of_filled hcounted, waitAgainTx, if_pos ⟨hq, hlim⟩, ← htx, ← hpar]
    rfl
  · refine ⟨waitAgainTx s, _, ?_, fun hy => absurd hy hends, fun _ => ⟨rfl, rfl⟩⟩
    rw [waitAgain_of_filled hresent, waitAgainTx, if_neg hcount, ← htx, ← hpar]
    rfl

/-- Settles O30: every record is sent again, and TX_FILL finds nothing to do. -/
theorem timeoutRetransmitsTheWindow : Obligations.TimeoutRetransmitsTheWindow := by
  intro s hinv hen
  have hfilled : txFillMore (clearReply s) = false := hinv.tx.filled hen.1
  obtain ⟨x, ls, he, hgave, hagain⟩ := txTimeoutBody_of_filled hfilled
  obtain ⟨hframe, -, hpar, hrev, hpkt, hfwd, hlast⟩ := resend_spec (winAscending (clearReply s)) (clearReply s)
  rw [winAscending, List.map_map] at hpkt hfwd
  rw [winAscending, List.map_map] at hlast
  refine ⟨_, (exec_of_enabled hen).trans (congrArg Host.Outcome.next he), ?_, hpar, hrev, hpkt, hfwd,
    congrArg Reply.effects hlast, hgave, hagain⟩
  exact ⟨hframe.build, hframe.txCfg, hframe.rx, hframe.rxPar, hframe.rxCfg, hframe.src, hframe.out, hframe.ackOut,
    hframe.inputs, hframe.freeCount⟩

/-! ## TX_START -/

theorem txStartBody_of_legal {s : State} (h : TxConfigOk s.build s.txCfg) :
    txStartBody s = (txFill (enterWait (latchTx s))).andThen fun t => setLabels [.started] (armTimer t) :=
  if_pos ((txConfigLegal_iff s).2 h)

theorem txStartBody_of_illegal {s : State} (h : ¬ TxConfigOk s.build s.txCfg) :
    txStartBody s = raise .tx .configError (latchTx s) :=
  if_neg (mt (txConfigLegal_iff s).1 h)

/-- Settles O22: the legality test fails on the values just latched, and the raise lets them stand. -/
theorem txStartRejectsAnIllegalConfiguration : Obligations.TxStartRejectsAnIllegalConfiguration := fun s hidle hbad =>
  (exec_of_enabled (i := .txStart) hidle).trans
    (congrArg Host.Outcome.next (txStartBody_of_illegal (s := clearReply s) hbad))

/-- The state TX_START fills the window from: the parameters latched, TX waiting, nothing sent yet (R142). -/
structure Started (s : State) : Prop where
  sending : Sending s
  tx : s.tx = { TxState.init with phase := .wait }

theorem started_enterWait {s : State} (h : Inv s) (hidle : s.tx.phase = .idle) (hok : TxConfigOk s.build s.txCfg) :
    Started (enterWait (latchTx (clearReply s))) := by
  refine ⟨(inv_iff.1 h.clearReply).1.sending_enterWait hidle hok, ?_⟩
  rw [← h.tx.idle hidle]
  rfl

theorem Started.window {s : State} (h : Started s) : s.tx.window = [] := by rw [h.tx]; rfl

theorem Started.next {s : State} (h : Started s) : s.tx.nextSeqNum = 0 := by rw [h.tx]; rfl

/-- The first packets TX_FILL sends are the first ones of the stream (R143). -/
theorem Started.newPackets_eq {s : State} (h : Started s) (j : Nat) :
    newPackets s j = (List.range j).map (streamPacket s.src s.txPar.pktSize) := by
  simp [newPackets, h.next]

theorem Started.fill_length {s t : State} {j : Nat} (h : Started s) (hfrom : FillFrom s j t) :
    t.tx.window.length = j := by
  simp [hfrom.window, h.window, h.newPackets_eq]

theorem Started.fill_next {s t : State} {j : Nat} (h : Started s) (hfrom : FillFrom s j t) : t.tx.nextSeqNum = j := by
  rw [hfrom.nextSeqNum, h.next, Nat.zero_add]

/-- The first TX_FILL completes: there are as many numbers as the window has room for (R142). -/
theorem Started.txFill_completes {s : State} (h : Started s) (hsws : s.txPar.sws ≤ 2147483648) :
    ∃ j t, txFill s = .completed t ∧ FillFrom s j t ∧ txFillMore t = false := by
  rcases txFill_spec h.sending.legal.pktSize_pos h.sending.core.pos (by simp [h.window]) with
    hdone | ⟨j, u, hfrom, hmore, hn, -⟩
  · exact hdone
  · obtain ⟨hroom, -⟩ := txFillMore_iff.1 hmore
    rw [h.fill_length hfrom, hfrom.txPar] at hroom
    rw [h.fill_next hfrom, seqMax] at hn
    omega

/-- What the first TX_FILL has sent, and where the sender then stands: the window is full, or the end-marker is the last
packet (R142, R143). -/
theorem Started.fill_pos {s t : State} {j n k : Nat} (h : Started s) (hfrom : FillFrom s j t)
    (hmore : txFillMore t = false) (hk : k = numChunks s.src.length s.txPar.pktSize) (hn : n = min s.txPar.sws (k + 1)) :
    j = n ∧ t.tx.eomQueued = decide (n = k + 1) ∧ t.tx.eomSeq = (if n = k + 1 then k else 0) ∧
      t.tx.cursor = min (n * s.txPar.pktSize) s.src.length := by
  have hroom := hfrom.room
  have hsws := h.sending.legal.sws_pos
  obtain ⟨hstream, hended⟩ := hfrom.pos
  rw [h.fill_length hfrom] at hroom
  rw [hfrom.frame.src, hfrom.txPar, h.fill_next hfrom, ← hk] at hstream hended
  cases hq : t.tx.eomQueued with
  | false =>
    obtain ⟨hseq, hle, hcur⟩ := hstream hq
    have hfull : ¬ j < s.txPar.sws := fun hlt => by
      rw [txFillMore_iff.2 ⟨by rwa [h.fill_length hfrom, hfrom.txPar], hq⟩] at hmore
      cases hmore
    have hjn : j = n := by omega
    have hne : n ≠ k + 1 := by omega
    exact ⟨hjn, by simp [hne], by rw [if_neg hne]; exact hseq, hjn ▸ hcur⟩
  | true =>
    obtain ⟨hseq, hlast, hcur⟩ := hended hq
    have hjn : j = n := by omega
    have heq : n = k + 1 := by omega
    have hcover : s.src.length ≤ k * s.txPar.pktSize :=
      Nat.not_lt.1 fun hlt => (hk ▸ (lt_numChunks h.sending.legal.pktSize_pos).2 hlt).false
    have hmul : n * s.txPar.pktSize = k * s.txPar.pktSize + s.txPar.pktSize := by rw [heq, Nat.succ_mul]
    exact ⟨hjn, by simp [heq], by rw [if_pos heq]; exact hseq, by omega⟩

/-- Settles O23: TX_FILL from the start of the stream, then the timer armed and loaded. -/
theorem txStartSendsTheFirstWindow : Obligations.TxStartSendsTheFirstWindow := by
  rintro s ps k n hinv hidle hok hsws rfl hk hn
  have hstart := started_enterWait hinv hidle hok
  obtain ⟨j, v, hfill, hfrom, hmore⟩ := hstart.txFill_completes hsws
  obtain ⟨rfl, hq, hseq, hcur⟩ := hstart.fill_pos hfrom hmore hk hn
  have hexec : exec .txStart s = .next (setLabels [.started] (armTimer v)) := by
    rw [exec_of_enabled (i := .txStart) hidle, execBody, txStartBody_of_legal (s := clearReply s) hok, hfill,
      Flow.andThen_completed]
  have hpar := hfrom.txPar
  have hsent : newDatagrams (enterWait (latchTx (clearReply s))) j = (List.range j).map fun i =>
      firstTransmission v.txPar.corruptSet (streamPacket s.src s.txCfg.pktSize.toNat i) := by
    rw [newDatagrams, hstart.newPackets_eq, List.map_map, hpar]
    rfl
  have hpkt := hfrom.pktOut
  have hfwd := hfrom.forward
  have hlast := hfrom.last
  rw [hsent] at hpkt hfwd hlast
  refine ⟨_, hexec, ?_, hfrom.reverse, hpar, ?_, hpkt, hfwd, ?_⟩
  · have hframe := hfrom.frame
    exact ⟨hframe.build, hframe.txCfg, hframe.rx, hframe.rxPar, hframe.rxCfg, hframe.src, hframe.out, hframe.ackOut,
      hframe.inputs, hframe.freeCount⟩
  · have hwin := hfrom.window
    rw [hstart.window, hstart.newPackets_eq, List.map_map, List.nil_append] at hwin
    show TxState.mk v.tx.phase v.tx.fault v.tx.base v.tx.nextSeqNum v.tx.eomQueued v.tx.eomSeq v.tx.window v.tx.cursor
      true v.txPar.timeoutTicks v.tx.finalTimeouts = _
    rw [hfrom.phase, hfrom.fault, hfrom.base, hstart.fill_next hfrom, hq, hseq, hwin, hcur, hpar, hfrom.finalTimeouts,
      hstart.tx]
    rfl
  · rw [List.map_map] at hlast
    show { v.last with labels := [.started] } = _
    rw [hlast]
    rfl

/-! ## The phase -/

theorem ackAdvance_phase (d : Datagram) (s : State) : (ackAdvance d s).2.tx.phase = s.tx.phase := by
  rcases ackAdvance_cases d s with ⟨-, h⟩ | ⟨_, -, -, h⟩ | ⟨_, -, -, h⟩ <;> rw [h]

/-- The rows of R148 for an ACK, in either form. -/
theorem txPhaseStep_ack {i : Instr} {s t : State} {d : Datagram} (hi : ackDatagram i = some d)
    (hw : s.tx.phase = .wait) (hexec : exec i s = .next t) :
    (AckEnds d s → t.tx.phase = .done) ∧
      (¬ AckEnds d s → t.tx.phase = .wait ∨ (t.tx.phase = .fault ∧ t.tx.fault = some .seqExhausted)) := by
  have hphase : (ackAdvance d (ackTaken d s)).2.tx.phase = .wait := (ackAdvance_phase d _).trans hw
  obtain ⟨l, u, hadv⟩ : ∃ l u, ackAdvance d (ackTaken d s) = (l, u) := ⟨_, _, rfl⟩
  rw [hadv] at hphase
  refine ⟨fun hends => ?_, fun hends => ?_⟩
  · obtain rfl := Host.Outcome.next.inj (hexec.symm.trans (exec_ack_of_ends hi hw hends hadv))
    rfl
  · obtain rfl := Host.Outcome.next.inj (hexec.symm.trans (exec_ack_of_not_ends hi hw hends hadv))
    rcases txFill_frame u with ⟨v, hv, -, -, -, hkept, -⟩ | ⟨v, hv, -⟩ <;> rw [hv]
    · exact .inl (hkept.trans hphase)
    · exact .inr ⟨rfl, rfl⟩

/-- The rows of R148 for a timeout. -/
theorem txPhaseStep_timeout {s t : State} (hinv : Inv s) (hen : Enabled .txTimeout s)
    (hexec : exec .txTimeout s = .next t) : TxPhaseStep .txTimeout s t := by
  obtain ⟨t', h, -, -, -, -, -, -, hgave, hagain⟩ := timeoutRetransmitsTheWindow s hinv hen
  obtain rfl := Host.Outcome.next.inj (hexec.symm.trans h)
  refine ⟨hen.1, fun hends => ?_, fun hends => ?_⟩
  · rw [(hgave hends).1]
  · rw [(hagain hends).1]
    exact hen.1

/-- The rows of R148 for a start: `SWS` is at most `MAX_SWS`, so the numbers suffice. -/
theorem txPhaseStep_start {s t : State} (hinv : Inv s) (hmax : s.build.maxSws ≤ 2147483648)
    (hidle : s.tx.phase = .idle) (hexec : exec .txStart s = .next t) : TxPhaseStep .txStart s t := by
  refine ⟨hidle, fun hok => ?_, fun hbad => ?_⟩
  · have ⟨_, _, _, hsws, _⟩ := hok
    obtain ⟨t', h, -, -, -, htx, -⟩ :=
      txStartSendsTheFirstWindow s _ _ _ hinv hidle hok (hsws.trans hmax) rfl rfl rfl
    obtain rfl := Host.Outcome.next.inj (hexec.symm.trans h)
    rw [htx]
  · obtain rfl := Host.Outcome.next.inj (hexec.symm.trans (txStartRejectsAnIllegalConfiguration s hidle hbad))
    exact ⟨rfl, rfl⟩

/-- Settles O34: a row for each operation of TX, and the frames for the others. -/
theorem txPhaseTransitions : Obligations.TxPhaseTransitions := by
  intro i s t hinv hmax hexec
  obtain ⟨hen, hbody⟩ := exec_next hexec
  cases i with
  | crc32 _ | encPkt _ _ _ | decPkt _ | encAck _ | decAck _ => rw [TxPhaseStep, codecOp_next rfl hexec]
  | rxReset | rxStart | rxPkt _ | rxIofault | pktData _ _ _ | pktEom _ =>
    rw [TxPhaseStep, (rxOp_frame rfl hexec).1.tx]
  | txReset => rw [hbody]; rfl
  | txStart => exact txPhaseStep_start hinv hmax hen hexec
  | txAck _ | ack _ _ => exact ⟨hen, txPhaseStep_ack rfl hen hexec⟩
  | txTimeout => exact txPhaseStep_timeout hinv hen hexec
  | txTick => rw [hbody]; exact ⟨hen.1, hen.1⟩
  | txIofault => rw [hbody]; exact ⟨hen, rfl, rfl⟩

/-! ## What the sender never takes back -/

/-- `base`, `nextSeqNum` and the cursor have not gone down, and what was sent and queued still is (R150 (e)). -/
structure SenderGrows (s t : State) : Prop where
  base_le : s.tx.base ≤ t.tx.base
  next_le : s.tx.nextSeqNum ≤ t.tx.nextSeqNum
  cursor_le : s.tx.cursor ≤ t.tx.cursor
  sent : s.pktOut <+: t.pktOut
  ended : s.tx.eomQueued = true → t.tx.eomQueued = true ∧ t.tx.eomSeq = s.tx.eomSeq

/-- What `SenderGrows` speaks of. -/
def sentSoFar (s : State) : Nat × Nat × Nat × Bool × Nat × List Datagram :=
  (s.tx.base, s.tx.nextSeqNum, s.tx.cursor, s.tx.eomQueued, s.tx.eomSeq, s.pktOut)

theorem SenderGrows.of_same {s t : State} (h : sentSoFar t = sentSoFar s := by exact rfl) : SenderGrows s t := by
  simp only [sentSoFar, Prod.mk.injEq] at h
  obtain ⟨hb, hn, hc, hq, he, hp⟩ := h
  exact ⟨hb.ge, hn.ge, hc.ge, hp ▸ List.prefix_rfl, fun h => ⟨hq.trans h, he⟩⟩

theorem SenderGrows.trans {s t u : State} (h : SenderGrows s t) (h' : SenderGrows t u) : SenderGrows s u := by
  refine ⟨h.base_le.trans h'.base_le, h.next_le.trans h'.next_le, h.cursor_le.trans h'.cursor_le, h.sent.trans h'.sent,
    fun hq => ?_⟩
  obtain ⟨hq, he⟩ := h.ended hq
  exact ⟨(h'.ended hq).1, (h'.ended hq).2.trans he⟩

/-- An iteration of TX_FILL runs only while the end-marker is not queued (R143). -/
theorem txFillOne_grows {s : State} (hmore : txFillMore s = true) : SenderGrows s (txFillOne s) := by
  obtain ⟨-, hq⟩ := txFillMore_iff.1 hmore
  rcases txFillOne_cases s with ⟨-, he⟩ | ⟨-, he⟩ <;> rw [he] <;>
    exact ⟨Nat.le_refl _, Nat.le_succ _, by simp, List.prefix_append _ _, fun h => by simp [hq] at h⟩

/-- TX_FILL and what follows it, which sends nothing more. -/
theorem txFill_andThen_grows {k : State → State} (s : State)
    (hk : ∀ t, SenderGrows t (k t) := by exact fun _ => .of_same) : SenderGrows s ((txFill s).andThen k) := by
  rcases txFill_induct (P := SenderGrows s) (fun u hu hmore _ => hu.trans (txFillOne_grows hmore)) .of_same with
    ⟨t, ht, hgrows⟩ | ⟨u, hgrows, -, -, hu⟩
  · rw [ht]; exact hgrows.trans (hk t)
  · rw [hu]; exact hgrows.trans .of_same

theorem txStartBody_grows (s : State) : SenderGrows s (txStartBody s) := by
  rcases txStartBody_cases s with ⟨-, he⟩ | he <;> rw [he]
  · exact SenderGrows.trans .of_same (txFill_andThen_grows (enterWait (latchTx s)))
  · exact .of_same

theorem ackAdvance_grows (d : Datagram) (s : State) : SenderGrows s (ackAdvance d s).2 := by
  rcases ackAdvance_cases d s with ⟨-, he⟩ | ⟨a, -, -, he⟩ | ⟨a, -, hle, he⟩ <;> rw [he]
  · exact .of_same
  · exact .of_same
  · exact ⟨by simp only; omega, Nat.le_refl _, Nat.le_refl _, List.prefix_rfl, fun h => ⟨h, rfl⟩⟩

theorem txArrival_grows (d : Datagram) (s : State) : SenderGrows s (txArrival d s) := by
  have hadv : SenderGrows s (ackAdvance d (takeDatagram .ackIn d s)).2 :=
    SenderGrows.trans .of_same (ackAdvance_grows d (takeDatagram .ackIn d s))
  unfold txArrival
  rcases txAckBody_eq d (takeDatagram .ackIn d s) with ⟨-, he⟩ | ⟨-, he⟩ <;> rw [he]
  · exact hadv.trans .of_same
  · exact hadv.trans (txFill_andThen_grows _)

theorem resend_grows (ps : List Packet) (s : State) : SenderGrows s (resend ps s) := by
  obtain ⟨-, htx, -, -, hpkt, -⟩ := resend_spec ps s
  refine ⟨?_, ?_, ?_, hpkt ▸ List.prefix_append _ _, fun hq => ⟨?_, ?_⟩⟩ <;> rw [htx]
  exact hq

theorem txTimeoutBody_grows (s : State) : SenderGrows s (txTimeoutBody s) := by
  have hresend := resend_grows (winAscending s) s
  rcases txTimeoutBody_cases s with ⟨-, he⟩ | ⟨-, -, -, he⟩ | ⟨-, -, he⟩ <;> rw [he]
  · exact hresend.trans .of_same
  · exact hresend.trans (SenderGrows.trans .of_same (txFill_andThen_grows (countTimeout (resend (winAscending s) s))))
  · exact hresend.trans (txFill_andThen_grows _)

/-- Every operation of TX but the reset (R150 (e)). -/
theorem txOp_grows {i : Instr} {s t : State} (hi : txOp i = true) (hr : i ≠ .txReset) (h : exec i s = .next t) :
    SenderGrows s t := by
  obtain ⟨-, rfl⟩ := exec_next h
  refine SenderGrows.trans (t := clearReply s) .of_same ?_
  cases i with
  | txReset => exact absurd rfl hr
  | txStart => exact txStartBody_grows _
  | txAck _ | ack _ _ => exact txArrival_grows _ _
  | txTimeout => exact txTimeoutBody_grows _
  | txTick | txIofault => exact .of_same
  | _ => simp [txOp] at hi

/-- Settles O35: the operations of TX grow what was sent, the others leave it. -/
theorem senderCountersNeverDecrease : Obligations.SenderCountersNeverDecrease := by
  intro i s t h hr
  have hgrows : SenderGrows s t := by
    rcases unit_cases i with hi | hi | hi
    · rw [codecOp_next hi h]
      exact .of_same
    · exact txOp_grows hi hr h
    · obtain ⟨hframe, -⟩ := rxOp_frame hi h
      exact .of_same (by rw [sentSoFar, hframe.tx, hframe.pktOut]; rfl)
  exact ⟨hgrows.base_le, hgrows.next_le, hgrows.cursor_le, hgrows.sent, hgrows.ended⟩

end Sys2Proof.Machine

/-! PROOFS. The operations of RX: reset, start, I/O fault, and RX_PKT for every class of an arriving datagram (R171 to
R180). -/

namespace Sys2Proof.Machine

/-! ## Reset, I/O fault and start -/

/-- Settles O16: RX_RESET is enabled in every phase and writes the initial registers. -/
theorem rxResetGivesTheInitialReceiver : Obligations.RxResetGivesTheInitialReceiver := fun _ =>
  exec_of_enabled trivial

/-- Settles O19: the two phases are the ones that enable RX_IOFAULT, and its body is the raise. -/
theorem rxIofaultStopsTheReceiver : Obligations.RxIofaultStopsTheReceiver := fun _ hphase =>
  exec_of_enabled hphase

/-- The test of RX_START on the latched value is the one on the register (R172). -/
theorem rxConfigLegal_iff {b : Config.Build} {c : RxCfg} :
    rxConfigLegal b { rws := c.rws.toNat } = true ↔ RxConfigOk b c := by
  simp [rxConfigLegal, RxConfigOk]

theorem rxStartBody_of_legal {s : State} (h : RxConfigOk s.build s.rxCfg) :
    rxStartBody s = setLabels [.started] { s with
      rxPar := { rws := s.rxCfg.rws.toNat }
      rx := { s.rx with laf := s.rx.lfr + s.rxCfg.rws.toNat, phase := .listen } } :=
  if_pos (rxConfigLegal_iff.2 h)

theorem rxStartBody_of_illegal {s : State} (h : ¬ RxConfigOk s.build s.rxCfg) :
    rxStartBody s = raise .rx .configError { s with rxPar := { rws := s.rxCfg.rws.toNat } } :=
  if_neg (mt rxConfigLegal_iff.1 h)

/-- Settles O36: the legality test on the value just latched decides between the two ends. -/
theorem rxStartOpensTheWindow : Obligations.RxStartOpensTheWindow := fun s hidle =>
  have hexec : exec .rxStart s = .next (rxStartBody (clearReply s)) := exec_of_enabled hidle
  ⟨fun hok => hexec.trans (congrArg _ (rxStartBody_of_legal (s := clearReply s) hok)),
    fun hbad => hexec.trans (congrArg _ (rxStartBody_of_illegal (s := clearReply s) hbad))⟩

/-! ## RX_PKT by class -/

/-- The state RX_PKT works on: a new trace line, the datagram taken from the channel (R73, R173). -/
def pktTaken (d : Datagram) (s : State) : State :=
  takeDatagram .pktIn d (clearReply s)

/-- In `RX_LISTEN` an arriving data datagram, in any form, gets the answer of its class (R96, R173). -/
theorem exec_of_class {i : Instr} {s : State} {d : Datagram} {c : PktClass} (hl : s.rx.phase = .listen)
    (hi : dataDatagram i = some d) (hc : classify s.rx.lfr s.rx.laf d = c) :
    exec i s = .next (answerClass c (pktTaken d s)) := by
  rw [exec_of_dataDatagram hi hl, rxArrival, rxPktBody_eq_answerClass, ← hc]
  rfl

/-- Settles O37: the answer of each of the three classes is REJECT. -/
theorem rejectedDatagramIsReAcked : Obligations.RejectedDatagramIsReAcked := by
  rintro i s d l hl hi (⟨hc, rfl⟩ | ⟨hc, rfl⟩ | ⟨hc, rfl⟩) <;> exact exec_of_class hl hi hc

/-- A PKT.EOM is an end-marker, whatever its number and the window (R94, R175). -/
theorem classify_pktEomBytes (lfr laf : Int) (seq : Word) : classify lfr laf (pktEomBytes seq) = .eom :=
  classify_eq_eom_iff_bytes.2 ⟨rfl, rfl⟩

/-- Settles O38: a PKT.EOM is of class EOM too, and the answer of that class is ACCEPT_EOM. -/
theorem endMarkerEndsTheReceiver : Obligations.EndMarkerEndsTheReceiver := by
  intro i s d hl hi heom
  have hc : classify s.rx.lfr s.rx.laf d = .eom := by
    rcases heom with hc | ⟨seq, rfl⟩
    · exact hc
    · cases hi
      exact classify_pktEomBytes _ _ seq
  exact exec_of_class hl hi hc

/-! ## Accepted packets -/

/-- The entries of a canonical buffer after a packet is stored and the frames after `lfr` are delivered (R70, R71). -/
theorem mem_drained_iff {m : Store Bytes} (hm : Store.WF m) {seq lfr k : Int} {payload p : Bytes} {n : Nat} :
    (k, p) ∈ (Store.put seq payload m).filter (fun e => !drainedKey lfr n e.1) ↔
      (k ≤ lfr ∨ lfr + n < k) ∧ BoundAfterPut m seq payload k p := by
  rw [List.mem_filter, Store.mem_put_iff hm, Bool.not_eq_true', ← Bool.not_eq_true, drainedKey_iff, and_comm,
    BoundAfterPut, not_and_or, Int.not_lt, Int.not_le]

/-- Settles O39: the run delivered is that of the drain, and in a canonical buffer what a key is bound to is its
entry. -/
theorem acceptedPacketIsBufferedAndDrained : Obligations.AcceptedPacketIsBufferedAndDrained := by
  intro i s d seq payload hl hi hc
  obtain ⟨ps, u, hu, hmissing, he⟩ := acceptAndDrain_spec seq payload (pktTaken d s)
  have hphase : u.rx.phase = .listen := hu.phase.trans hl
  have hfault : u.rx.fault = s.rx.fault := hu.fault
  have hlfr : u.rx.lfr = s.rx.lfr + ps.length := hu.lfr
  have hpar : u.rxPar = s.rxPar := hu.rxPar
  have hbuf : u.rx.buf = (Store.put seq payload s.rx.buf).filter fun e => !drainedKey s.rx.lfr ps.length e.1 := hu.buf
  have hlast : u.last = { labels := [], effects := drainEffects s.rx.lfr ps, result := none } := hu.last
  refine ⟨ps, _, (exec_of_class hl hi hc).trans (congrArg Host.Outcome.next he),
    ⟨hu.frame.build, hu.frame.tx, hu.frame.txPar, hu.frame.txCfg, hu.frame.rxCfg, hu.frame.src, hu.frame.pktOut,
      hu.frame.inputs, hu.frame.freeCount⟩,
    hu.payloads, hmissing, ?_, hpar, hu.out, hu.ackOut, hu.reverse, hu.forward, ?_, fun hwf => ?_⟩
  · simp only [setLabels_rx, hphase, hfault, hlfr, hpar, hbuf]
  · rw [setLabels_last, hlast]
  · refine ⟨?_, fun j p hj => ?_, fun p hp => ?_, fun k p => ?_⟩
    · exact hbuf ▸ (Store.put_wf hwf).filter _
    · exact (Store.mem_put_iff hwf).1 (Store.mem_of_get (hu.payloads j p hj))
    · exact Store.get_ne_none_of_mem ((Store.mem_put_iff hwf).2 hp) hmissing
    · rw [← mem_drained_iff hwf, ← hbuf]
      rfl

/-- In `RX_LISTEN` the frame that is missing next is not buffered (R37). -/
theorem Listening.get_next {s : State} (h : Listening s) : Store.get (s.rx.lfr + 1) s.rx.buf = none := by
  by_contra hne
  obtain ⟨p, hp⟩ := Option.ne_none_iff_exists'.1 hne
  exact absurd (h.keys _ (Store.mem_of_get hp)).1 (Int.lt_irrefl _)

/-- A packet other than the next frame is stored, and the window stays where it is (R176). -/
theorem Listening.acceptAndDrain_of_ne {s : State} (h : Listening s) {seq : Int} (hne : seq ≠ s.rx.lfr + 1)
    (payload : Bytes) : acceptAndDrain seq payload s = setLabels [.accept 0] (bufPut seq payload s) := by
  have hmissing : Store.get (s.rx.lfr + 1) (Store.put seq payload s.rx.buf) = none :=
    (Store.get_put_other hne.symm).trans h.get_next
  rw [acceptAndDrain, drain_zero (s := bufPut seq payload s) hmissing]
  simp only [bufPut_rx, bufPut_rxPar, ← h.laf]
  rfl

/-- Settles O40: the next frame is still missing, so the drain runs zero times. -/
theorem bufferedPacketIsNotAcknowledged : Obligations.BufferedPacketIsNotAcknowledged := by
  intro i s d seq payload hinv hl hi hc hne
  have htaken : Listening (pktTaken d s) := (hinv.rx.congr (t := pktTaken d s) rfl rfl rfl).listen hl
  refine ⟨?_, Store.put_wf hinv.rx.buf_wf, fun k p => Store.mem_put_iff hinv.rx.buf_wf⟩
  exact (exec_of_class hl hi hc).trans (congrArg Host.Outcome.next (htaken.acceptAndDrain_of_ne hne payload))

/-! ## The receiver only moves forward -/

/-- `t` is `s` with `LFR` moved past `n` numbers: no output without one, and the ACKs of those numbers or, without one,
at most one more of the old `LFR` (R180). -/
structure LfrMoved (s : State) (n : Nat) (t : State) : Prop where
  lfr : t.rx.lfr = s.rx.lfr + n
  out : n = 0 → t.out = s.out
  acks : t.ackOut = s.ackOut ++ acksAfter s.rx.lfr n ∨ (n = 0 ∧ t.ackOut = s.ackOut ++ [encAck s.rx.lfr])

theorem LfrMoved.of_same {s t : State} (hrx : t.rx.lfr = s.rx.lfr) (hout : t.out = s.out)
    (hack : t.ackOut = s.ackOut) : LfrMoved s 0 t :=
  ⟨by simpa using hrx, fun _ => hout, .inl (by simpa [acksAfter] using hack)⟩

/-- A re-ACK, an end-marker passed, or the frames delivered (R174 to R177). -/
theorem answerClass_lfrMoved (c : PktClass) (s : State) : ∃ n, LfrMoved s n (answerClass c s) := by
  cases c with
  | malformed | badcrc | oow => exact ⟨0, (Int.add_zero _).symm, fun _ => rfl, .inr ⟨rfl, rfl⟩⟩
  | eom => exact ⟨1, rfl, nofun, .inl (by rw [acksAfter_succ]; rfl)⟩
  | accept seq payload =>
    obtain ⟨ps, u, hu, -, he⟩ := acceptAndDrain_spec seq payload s
    rw [answerClass, he]
    refine ⟨ps.length, hu.lfr, fun h0 => hu.out.trans ?_, .inl hu.ackOut⟩
    rw [List.length_eq_zero_iff.1 h0]
    exact List.append_nil _

theorem lfrMoved_of_dataDatagram {i : Instr} {s t : State} {d : Datagram} (hi : dataDatagram i = some d)
    (hl : s.rx.phase = .listen) (hexec : exec i s = .next t) : ∃ n, LfrMoved s n t := by
  obtain rfl := Host.Outcome.next.inj (hexec.symm.trans (exec_of_class hl hi rfl))
  obtain ⟨n, hlfr, hout, hacks⟩ := answerClass_lfrMoved (classify s.rx.lfr s.rx.laf d) (pktTaken d s)
  exact ⟨n, hlfr, hout, hacks⟩

theorem rxOp_lfrMoved {j : Instr} {s t : State} (hj : rxOp j = true) (hr : j ≠ .rxReset) (h : exec j s = .next t) :
    ∃ n, LfrMoved s n t := by
  obtain ⟨hen, hbody⟩ := exec_next h
  cases j with
  | rxReset => exact absurd rfl hr
  | rxStart =>
    rcases rxStartBody_cases (clearReply s) with ⟨-, he⟩ | he <;> rw [hbody, execBody, he] <;>
      exact ⟨0, .of_same rfl rfl rfl⟩
  | rxPkt _ | pktData _ _ _ | pktEom _ => exact lfrMoved_of_dataDatagram rfl hen h
  | rxIofault => rw [hbody]; exact ⟨0, .of_same rfl rfl rfl⟩
  | _ => simp [rxOp] at hj

/-- Settles O41: an operation of RX moves `LFR` as its class says, the others leave the receiver alone. -/
theorem receiverOnlyMovesForward : Obligations.ReceiverOnlyMovesForward := by
  intro i s t h hr
  have hmoved : ∃ n, LfrMoved s n t := by
    rcases unit_cases i with hi | hi | hi
    · rw [codecOp_next hi h]
      exact ⟨0, .of_same rfl rfl rfl⟩
    · obtain ⟨hframe, -⟩ := txOp_frame hi h
      exact ⟨0, .of_same (congrArg RxState.lfr hframe.rx) hframe.out hframe.ackOut⟩
    · exact rxOp_lfrMoved hi hr h
  obtain ⟨n, hlfr, hout, hacks⟩ := hmoved
  exact ⟨n, hlfr, (exec_streams h).2, hout, hacks⟩

/-! ## The phase -/

/-- Only the end-marker ends the session (R179). -/
theorem answerClass_phase (c : PktClass) {s : State} (hl : s.rx.phase = .listen) :
    (answerClass c s).rx.phase = if c = .eom then .done else .listen := by
  cases c with
  | malformed | badcrc | oow => exact hl
  | eom => rfl
  | accept seq payload =>
    obtain ⟨ps, u, hu, -, he⟩ := acceptAndDrain_spec seq payload s
    rw [answerClass, he]
    exact hu.phase.trans hl

/-- The rows of R179 for an arriving datagram, in any form. -/
theorem rxPktPhaseStep_of_dataDatagram {i : Instr} {s t : State} {d : Datagram} (hi : dataDatagram i = some d)
    (hl : s.rx.phase = .listen) (hexec : exec i s = .next t) : RxPktPhaseStep d s t := by
  obtain rfl := Host.Outcome.next.inj (hexec.symm.trans (exec_of_class hl hi rfl))
  exact ⟨hl, answerClass_phase _ hl⟩

/-- The rows of R179 for a start. -/
theorem rxPhaseStep_start {s t : State} (hidle : s.rx.phase = .idle) (hexec : exec .rxStart s = .next t) :
    RxPhaseStep .rxStart s t := by
  obtain ⟨hlegal, hillegal⟩ := rxStartOpensTheWindow s hidle
  refine ⟨hidle, fun hok => ?_, fun hbad => ?_⟩
  · obtain rfl := Host.Outcome.next.inj (hexec.symm.trans (hlegal hok))
    rfl
  · obtain rfl := Host.Outcome.next.inj (hexec.symm.trans (hillegal hbad))
    exact ⟨rfl, rfl⟩

/-- Settles O42: a row for each operation of RX, and the frames for the others. -/
theorem rxPhaseTransitions : Obligations.RxPhaseTransitions := by
  intro i s t hexec
  obtain ⟨hen, hbody⟩ := exec_next hexec
  cases i with
  | crc32 _ | encPkt _ _ _ | decPkt _ | encAck _ | decAck _ => rw [RxPhaseStep, codecOp_next rfl hexec]
  | txReset | txStart | txAck _ | txTimeout | txTick | txIofault | ack _ _ =>
    rw [RxPhaseStep, (txOp_frame rfl hexec).1.rx]
  | rxReset => rw [hbody]; rfl
  | rxStart => exact rxPhaseStep_start hen hexec
  | rxPkt _ | pktData _ _ _ | pktEom _ => exact rxPktPhaseStep_of_dataDatagram rfl hen hexec
  | rxIofault => rw [hbody]; exact ⟨hen, rfl, rfl⟩

end Sys2Proof.Machine

/-! PROOFS. When an operation runs (R203), what the terminal phases forbid (R201), and the timer counted down tick by
tick (R208). -/

namespace Sys2Proof.Machine

/-! ## Enabling -/

/-- An operation that is not enabled has no transition (R203). -/
theorem exec_of_not_enabled {i : Instr} {s : State} (h : ¬ Enabled i s) : exec i s = .fault .notEnabled := by
  obtain ⟨b, hb, hexec⟩ := exec_eq_whenEnabled i s
  rw [hexec, whenEnabled_of_not (Bool.eq_false_iff.2 (mt hb.1 h))]

/-- Settles O14: each operation is its body behind its enabling condition. -/
theorem operationsRunExactlyWhenEnabled : Obligations.OperationsRunExactlyWhenEnabled := fun _ _ =>
  ⟨fun h => ⟨_, exec_of_enabled h⟩, exec_of_not_enabled⟩

/-! ## The terminal phases -/

/-- But for the reset, TX does something in `TX_IDLE` and `TX_WAIT` only (R140). -/
theorem tx_phase_of_enabled {i : Instr} {s : State} (hi : txOp i = true) (hr : i ≠ .txReset) (h : Enabled i s) :
    s.tx.phase = .idle ∨ s.tx.phase = .wait := by
  cases i with
  | txReset => exact absurd rfl hr
  | txStart => exact .inl h
  | txAck _ | ack _ _ => exact .inr h
  | txTimeout | txTick => exact .inr h.1
  | txIofault => exact h
  | _ => simp [txOp] at hi

/-- But for the reset, RX does something in `RX_IDLE` and `RX_LISTEN` only (R170). -/
theorem rx_phase_of_enabled {j : Instr} {s : State} (hj : rxOp j = true) (hr : j ≠ .rxReset) (h : Enabled j s) :
    s.rx.phase = .idle ∨ s.rx.phase = .listen := by
  cases j with
  | rxReset => exact absurd rfl hr
  | rxStart => exact .inl h
  | rxPkt _ | pktData _ _ _ | pktEom _ => exact .inr h
  | rxIofault => exact h
  | _ => simp [rxOp] at hj

/-- Settles O20: in a terminal phase no operation of the engine but its reset is enabled, and the operations of the
other units leave the engine alone. -/
theorem onlyResetLeavesATerminalPhase : Obligations.OnlyResetLeavesATerminalPhase := by
  intro i s t h
  rcases unit_cases i with hi | hi | hi
  · rw [codecOp_next hi h]
    exact ⟨fun _ _ => ⟨rfl, rfl⟩, fun _ _ => ⟨rfl, rfl, rfl⟩⟩
  · obtain ⟨hframe, -⟩ := txOp_frame hi h
    refine ⟨fun hterm hr => ?_, fun _ _ => ⟨hframe.rx, hframe.out, hframe.ackOut⟩⟩
    rcases tx_phase_of_enabled hi hr (exec_next h).1 with hp | hp <;> simp [hp] at hterm
  · obtain ⟨hframe, -⟩ := rxOp_frame hi h
    refine ⟨fun _ _ => ⟨hframe.tx, hframe.pktOut⟩, fun hterm hr => ?_⟩
    rcases rx_phase_of_enabled hi hr (exec_next h).1 with hp | hp <;> simp [hp] at hterm

/-! ## Ticks -/

theorem ticks_succ {n : Nat} {s : State} (h : Enabled .txTick s) :
    ticks (n + 1) s = ticks n (txTickBody (clearReply s)) := by
  simp only [ticks, exec_of_enabled h, execBody]

/-- As many ticks as the timer holds are enabled, and each takes one off the count and nothing else (R145, R208). -/
theorem ticks_of_le {m : Nat} {s : State} (hw : s.tx.phase = .wait) (htimed : s.build.timed = true)
    (hm : m ≤ s.tx.timerCnt) : ∃ t, ticks m s = .next t ∧ t.build = s.build ∧
      t.tx = { s.tx with timerCnt := s.tx.timerCnt - m } := by
  induction m generalizing s with
  | zero => exact ⟨s, rfl, rfl, rfl⟩
  | succ m ih =>
    have htick : Enabled .txTick s := ⟨hw, by omega, htimed⟩
    have hm' : m ≤ s.tx.timerCnt - 1 := by omega
    obtain ⟨t, ht, hbuild, htx⟩ := ih (s := txTickBody (clearReply s)) hw htimed hm'
    refine ⟨t, (ticks_succ htick).trans ht, hbuild, htx.trans ?_⟩
    simp [txTickBody, Nat.sub_sub, Nat.add_comm]

/-- Settles O32: the ticks taken leave the count that TX_TIMEOUT and TX_TICK are enabled by. -/
theorem timeoutComesAfterExactlyTheLoadedTicks : Obligations.TimeoutComesAfterExactlyTheLoadedTicks := by
  refine fun s hw htimed => ⟨fun m hm => ?_, ?_⟩
  · obtain ⟨t, ht, hbuild, htx⟩ := ticks_of_le hw htimed hm.le
    have hcnt : t.tx.timerCnt = s.tx.timerCnt - m := congrArg TxState.timerCnt htx
    refine ⟨t, ht, exec_of_not_enabled ?_⟩
    rintro ⟨-, hzero | huntimed⟩
    · omega
    · simp [hbuild, htimed] at huntimed
  · obtain ⟨t, ht, -, htx⟩ := ticks_of_le hw htimed le_rfl
    rw [Nat.sub_self] at htx
    have hcnt : t.tx.timerCnt = 0 := congrArg TxState.timerCnt htx
    have hwait : t.tx.phase = .wait := (congrArg TxState.phase htx).trans hw
    have htick : ¬ Enabled .txTick t := fun ⟨_, hpos, _⟩ => hpos.ne' hcnt
    exact ⟨t, _, ht, htx, exec_of_not_enabled htick, exec_of_enabled ⟨hwait, .inl hcnt⟩⟩

end Sys2Proof.Machine

/-! PROOFS. The untimed reading does what the timed one does, with the ticks erased (R209): the bodies of the operations
do not look at the time, which only enables. -/

namespace Sys2Proof.Machine

/-! ## What does not look at the time -/

/-- `f` does the same, but for the time, on a state whose time is erased (R209). -/
def Timeless (f : State → State) : Prop :=
  ∀ s, eraseTime (f (eraseTime s)) = eraseTime (f s)

section

variable {f g k : State → State}

theorem Timeless.congr (h : Timeless f) {s u : State} (hu : eraseTime u = eraseTime s) :
    eraseTime (f u) = eraseTime (f s) := by
  rw [← h u, hu, h s]

theorem Timeless.comp (hg : Timeless g) (hf : Timeless f) : Timeless fun s => g (f s) := fun s =>
  hg.congr (hf s)

/-- A parameter other than the time may be read first. -/
theorem Timeless.read {α : Type} {p : State → α} {F : α → State → State} (hF : ∀ x, Timeless (F x))
    (hp : ∀ s, p (eraseTime s) = p s := by exact fun _ => rfl) : Timeless fun s => F (p s) s := fun s =>
  (congrArg (fun x => eraseTime (F x (eraseTime s))) (hp s)).trans (hF (p s) s)

/-- A case distinction on anything but the time. -/
theorem Timeless.of_cases {c : State → Prop} (hf : Timeless f) (hg : Timeless g)
    (hk : ∀ s, (c s ∧ k s = f s) ∨ (¬ c s ∧ k s = g s))
    (hc : ∀ s, c (eraseTime s) ↔ c s := by exact fun _ => Iff.rfl) : Timeless k := fun s => by
  rcases hk s with ⟨hs, h⟩ | ⟨hs, h⟩ <;> rw [h]
  · rw [((hk (eraseTime s)).resolve_right fun h => h.1 ((hc s).2 hs)).2, hf s]
  · rw [((hk (eraseTime s)).resolve_left fun h => hs ((hc s).1 h.1)).2, hg s]

theorem Timeless.ite {c : State → Prop} [DecidablePred c] (hf : Timeless f) (hg : Timeless g)
    (hc : ∀ s, c (eraseTime s) ↔ c s := by exact fun _ => Iff.rfl) : Timeless fun s => if c s then f s else g s :=
  .of_cases hf hg (fun s => (em (c s)).imp (fun h => ⟨h, if_pos h⟩) fun h => ⟨h, if_neg h⟩) hc

/-! ### TX -/

theorem raise_timeless (e : Engine) (f : FatalFault) : Timeless (raise e f) := by
  cases e <;> exact fun _ => rfl

/-- A packet made from anything but the time, sent after an update of TX. -/
theorem sendNew_timeless {p : State → Packet} (hf : Timeless f)
    (hp : ∀ s, p (eraseTime s) = p s := by exact fun _ => rfl) : Timeless fun s => sendNew (p s) (f s) :=
  .read (F := fun p s => sendNew p (f s)) (fun p => .comp (g := sendNew p) (fun _ => rfl) hf) hp

theorem txFillOne_timeless : Timeless txFillOne :=
  .of_cases (c := fun s => srcChunk s.txPar.pktSize s ≠ [])
    (sendNew_timeless (f := fun s =>
      { s with tx := { s.tx with cursor := s.tx.cursor + (srcChunk s.txPar.pktSize s).length } }) fun _ => rfl)
    (sendNew_timeless (f := fun s => { s with tx := { s.tx with eomQueued := true, eomSeq := s.tx.nextSeqNum } })
      fun _ => rfl)
    fun s => (txFillOne_cases s).imp_right fun ⟨hnil, he⟩ => ⟨not_not.2 hnil, he⟩

theorem txFillLoop_succ_andThen (fuel : Nat) (s : State) : (txFillLoop (fuel + 1) s).andThen k =
    if txFillMore s = true then
      if seqMax < s.tx.nextSeqNum then raise .tx .seqExhausted s else (txFillLoop fuel (txFillOne s)).andThen k
    else k s := by
  simp only [txFillLoop]
  split
  · split <;> rfl
  · rfl

theorem txFillLoop_timeless (hk : Timeless k) (fuel : Nat) : Timeless fun s => (txFillLoop fuel s).andThen k := by
  induction fuel with
  | zero => exact hk
  | succ fuel ih =>
    simp only [txFillLoop_succ_andThen]
    exact .ite (.ite (raise_timeless _ _) (ih.comp txFillOne_timeless)) hk

theorem txFill_timeless (hk : Timeless k) : Timeless fun s => (txFill s).andThen k :=
  .read (F := fun fuel s => (txFillLoop fuel s).andThen k) (p := fun s => s.src.length - s.tx.cursor + 1)
    (txFillLoop_timeless hk)

theorem txStartBody_timeless : Timeless txStartBody :=
  .of_cases (c := fun s => TxConfigOk s.build s.txCfg)
    ((txFill_timeless (k := fun t => setLabels [.started] (armTimer t)) fun _ => rfl).comp
      (f := fun s => enterWait (latchTx s)) fun _ => rfl)
    ((raise_timeless _ _).comp (f := latchTx) fun _ => rfl)
    fun s => (em _).imp (fun h => ⟨h, txStartBody_of_legal h⟩) fun h => ⟨h, txStartBody_of_illegal h⟩

/-- Neither the label nor the advance itself looks at the time (R144). -/
theorem ackAdvance_eraseTime (d : Datagram) (s : State) :
    ackAdvance d (eraseTime s) = ((ackAdvance d s).1, eraseTime (ackAdvance d s).2) := by
  unfold ackAdvance
  cases decAck d with
  | none => rfl
  | some a => by_cases h : (s.tx.base : Int) ≤ a <;> simp [eraseTime, h, winEvictBelow]

theorem ackAdvance_label_eraseTime (d : Datagram) (s : State) :
    (ackAdvance d (eraseTime s)).1 = (ackAdvance d s).1 := by
  rw [ackAdvance_eraseTime]

theorem ackAdvance_timeless (d : Datagram) : Timeless fun s => (ackAdvance d s).2 := fun s =>
  congrArg (fun r => eraseTime r.2) (ackAdvance_eraseTime d s)

theorem txAckBody_timeless (d : Datagram) : Timeless (txAckBody d) :=
  .of_cases
    (.read (F := fun l s => setLabels [l, .done] (endSession .done (ackAdvance d s).2))
      (fun l => .comp (g := fun s => setLabels [l, .done] (endSession .done s)) (fun _ => rfl) (ackAdvance_timeless d))
      (ackAdvance_label_eraseTime d))
    (.read (F := fun l s => (txFill (ackAdvance d s).2).andThen fun t => setLabels [l] (loadTimer t))
      (fun l => (txFill_timeless (k := fun t => setLabels [l] (loadTimer t)) fun _ => rfl).comp (ackAdvance_timeless d))
      (ackAdvance_label_eraseTime d))
    (txAckBody_eq d)

theorem txArrival_timeless (d : Datagram) : Timeless (txArrival d) :=
  (txAckBody_timeless d).comp (f := takeDatagram .ackIn d) fun _ => rfl

theorem resend_timeless (ps : List Packet) : Timeless (resend ps) := by
  induction ps with
  | nil => exact fun _ => rfl
  | cons p ps ih => exact ih.comp (f := emit .pktOut (encPkt p)) fun _ => rfl

theorem resendWindow_timeless : Timeless fun s => resend (winAscending s) s :=
  .read resend_timeless

theorem waitAgain_timeless (hf : Timeless f) : Timeless fun s => waitAgain s.tx.window.length (f s) :=
  .read (F := fun n s => waitAgain n (f s)) fun n =>
    (txFill_timeless (k := fun t => setLabels [.retransmit n] (loadTimer t)) fun _ => rfl).comp hf

theorem txTimeoutBody_timeless : Timeless txTimeoutBody := by
  have hcount : Timeless fun s => countTimeout (resend (winAscending s) s) :=
    .comp (g := countTimeout) (fun _ => rfl) resendWindow_timeless
  refine .of_cases (c := TimeoutEnds)
    (.read (F := fun n s => setLabels [.retransmit n, .gaveup]
      (endSession .gaveup (countTimeout (resend (winAscending s) s)))) fun n =>
        .comp (g := fun s => setLabels [.retransmit n, .gaveup] (endSession .gaveup s)) (fun _ => rfl) hcount)
    (.ite (c := fun s => s.tx.eomQueued = true ∧ s.txPar.finalTimeouts ≠ none)
      (waitAgain_timeless hcount) (waitAgain_timeless resendWindow_timeless))
    fun s => (txTimeoutBody_cases s).imp_right fun h => ?_
  rcases h with ⟨hn, hq, hf, he⟩ | ⟨hn, hq, he⟩
  · exact ⟨hn, by rw [he, if_pos ⟨hq, hf⟩]⟩
  · exact ⟨hn, by rw [he, if_neg hq]⟩

/-! ### RX -/

theorem rxStartBody_timeless : Timeless rxStartBody :=
  .of_cases (c := fun s => RxConfigOk s.build s.rxCfg) (fun _ => rfl) (fun _ => rfl)
    fun s => (em _).imp (fun h => ⟨h, rxStartBody_of_legal h⟩) fun h => ⟨h, rxStartBody_of_illegal h⟩

/-- The drain and what follows it, which is told the number of deliveries (R176). -/
theorem drainLoop_timeless {k : Nat → State → State} (hk : ∀ n, Timeless (k n)) (fuel : Nat) :
    Timeless fun s => k (drainLoop fuel s).1 (drainLoop fuel s).2 := by
  induction fuel generalizing k with
  | zero => exact hk 0
  | succ fuel ih =>
    refine .of_cases (c := fun s => bufHas (s.rx.lfr + 1) s = true)
      (.comp (f := deliverNext) (ih fun n => hk (n + 1)) fun _ => rfl) (hk 0) fun s => ?_
    simp only [drainLoop]
    by_cases h : bufHas (s.rx.lfr + 1) s = true
    · exact .inl ⟨h, by rw [if_pos h]⟩
    · exact .inr ⟨h, by rw [if_neg h]⟩

theorem drain_timeless {k : Nat → State → State} (hk : ∀ n, Timeless (k n)) :
    Timeless fun s => k (drain s).1 (drain s).2 :=
  .read (p := fun s => s.rx.buf.length) (F := fun fuel s => k (drainLoop fuel s).1 (drainLoop fuel s).2)
    (drainLoop_timeless hk)

theorem acceptAndDrain_timeless (seq : Int) (payload : Bytes) : Timeless (acceptAndDrain seq payload) :=
  (drain_timeless (k := fun n s => setLabels [.accept n] { s with rx := { s.rx with laf := s.rx.lfr + s.rxPar.rws } })
    fun _ _ => rfl).comp (f := bufPut seq payload) fun _ => rfl

theorem answerClass_timeless (c : PktClass) : Timeless (answerClass c) := by
  cases c with
  | malformed | badcrc | oow | eom => exact fun _ => rfl
  | accept seq payload => exact acceptAndDrain_timeless seq payload

theorem rxArrival_timeless (d : Datagram) : Timeless (rxArrival d) := by
  have hbody : Timeless (rxPktBody d) := by
    rw [funext (rxPktBody_eq_answerClass d)]
    exact .read (p := fun s => classify s.rx.lfr s.rx.laf d) answerClass_timeless
  exact hbody.comp (f := takeDatagram .pktIn d) fun _ => rfl

end

/-! ## The untimed reading -/

/-- No operation looks at the time in what it does; the time only enables (R209). -/
theorem execBody_timeless (i : Instr) : Timeless (execBody i) := by
  cases i with
  | crc32 _ | encPkt _ _ _ | decPkt _ | encAck _ | decAck _ => exact fun _ => rfl
  | txReset | txTick | txIofault | rxReset | rxIofault => exact fun _ => rfl
  | txStart => exact txStartBody_timeless
  | txAck _ | ack _ _ => exact txArrival_timeless _
  | txTimeout => exact txTimeoutBody_timeless
  | rxStart => exact rxStartBody_timeless
  | rxPkt _ | pktData _ _ _ | pktEom _ => exact rxArrival_timeless _

/-- What the timed reading enables the untimed one enables, but for the tick (R209). -/
theorem Untimed.enabled {i : Instr} {s u : State} (h : Untimed s u) (hi : i ≠ .txTick) (hen : Enabled i s) :
    Enabled i u := by
  obtain ⟨huntimed, herase⟩ := h
  have htx : u.tx.phase = s.tx.phase := congrArg (fun s => s.tx.phase) herase
  have hrx : u.rx.phase = s.rx.phase := congrArg (fun s => s.rx.phase) herase
  cases i with
  | txTick => exact absurd rfl hi
  | txTimeout => exact ⟨htx.trans hen.1, .inr huntimed⟩
  | crc32 _ | encPkt _ _ _ | decPkt _ | encAck _ | decAck _ | txReset | rxReset => exact trivial
  | txStart | txAck _ | ack _ _ => exact htx.trans hen
  | txIofault => exact hen.imp htx.trans htx.trans
  | rxStart | rxPkt _ | pktData _ _ _ | pktEom _ => exact hrx.trans hen
  | rxIofault => exact hen.imp hrx.trans hrx.trans

/-- A tick is the identity but for the time and the trace line (R145). -/
theorem eraseTime_txTickBody (s : State) : eraseTime (txTickBody s) = eraseTime s := rfl

/-- Settles O33: the untimed machine is enabled where the timed one is, and its bodies do not look at the time. -/
theorem untimedReadingRefinesTheTimedOne : Obligations.UntimedReadingRefinesTheTimedOne := by
  intro i s t u hu h
  obtain ⟨hen, rfl⟩ := exec_next h
  refine ⟨fun hi => ?_, ?_⟩
  · have hexec := exec_of_enabled (hu.enabled hi hen)
    have hbuild := (configurationIsLatchedAtStart i u _ hexec).1
    exact ⟨_, hexec, by rw [hbuild]; exact hu.1, (execBody_timeless i).congr hu.2⟩
  · rintro rfl
    exact ⟨hu.1, hu.2.trans (eraseTime_txTickBody (clearReply s)).symm⟩

end Sys2Proof.Machine
